-- ==== Sys2Proof/Word.lean ====
section
/-! DEFINITION. The widths of the frame fields (10_frame_formats_and_codes.md, R170 to R172), and tables of a fixed
number of like records with their one read and one write. -/

namespace Sys2Proof

/-- A one-byte field of a frame. -/
abbrev Byte := BitVec 8

/-- A two-byte field of a frame: a tag, a handle, a CU value, a duration. -/
abbrev Half := BitVec 16

/-- The record numbered `i` of a table of `n` like records. -/
def look {α : Type} {n : Nat} (v : Vector α n) (i : Fin n) : α := v[i.val]

/-- The table with the record numbered `i` replaced. -/
def put {α : Type} {n : Nat} (v : Vector α n) (i : Fin n) (x : α) : Vector α n := v.set i.val x

end Sys2Proof
end

