-- ==== Sys2Proof/Config.lean ====
section
/-! DEFINITION. What the part fixes: sizes of its stores, limits of its settings, reset values of its settings, and the
one value the spec leaves open. -/

namespace Sys2Proof.Config

/-- Entries of the waiting store (R70). -/
def storeSize : Nat := 160

/-- The most waiting entries of levels P1 and P2 together (R71): 32 of the 160 are open to level E alone. -/
def priorityStoreSize : Nat := 128

/-- A grant of level P1, P2 or P3 is created only with this many FREE entries (R45): 32 are kept for level E. -/
def freeEntriesForPriority : Nat := 33

/-- The most tombstones of one master (R60). -/
def tombstoneLimit : Nat := 16

/-- The most recallable grants one case attempt takes (R90). -/
def victimLimit : Nat := 4

/-- Frames an outbound queue of a master link holds (R152). -/
def queueSize : Nat := 64

/-- Frames a receive buffer holds (R145, R156). -/
def receiveSize : Nat := 16

/-- From this fill on, an outbound queue takes no advisory notice (R152). -/
def advisoryLimit : Nat := 48

/-- Frames the radio outbound queue holds (R157). -/
def radioQueueSize : Nat := 8

/-- Frame faults within one epoch at which a master link is suspended (R144). -/
def frameFaultLimit : Nat := 8

/-- The largest capacity of a carrier in CU (R1). -/
def maxNominal : Nat := 1023

/-- The largest guard of a carrier in CU (R1). -/
def maxGuard : Nat := 255

/-- Twelve carriers of 1023 CU each: the bound of shares and ceilings (R17, R23). -/
def maxShare : Nat := 12276

/-- Where per-epoch counters and the slip count stay (R129, R132). -/
def counterLimit : Nat := 65535

/-- The part's revision, given in HELLO (R147). -/
def revision : Nat := 1

/-- The timebase counts 0 to 2^48 - 1 (R126). -/
def timebaseRange : Nat := 2 ^ 48

/-- The free value of log 4: what the timebase reads one millisecond after 2^48 - 1. R126 says only that the count does
not wrap in service. -/
opaque timebasePastRange : Nat → BitVec 48

end Sys2Proof.Config
end

