-- ==== Sys2Proof/Syntax.lean ====
section
/-! DEFINITION. The commands of the part: one constructor for each row of spec/opcode_table.json, with the fields of its
frame (R170, R172) at the frame's widths, so that every value a frame can carry is a value of the operand. -/

namespace Sys2Proof

/-- The commands. `m` is the master link a frame arrives on, or the master an event of the part concerns; `tag` is the
tag in the frame's body. A tag that nothing reads (LINK_OPEN, PRESENCE, CARRIER_REPORT, EPOCH_TICK) is left out. -/
inductive Instr where
  /-- POWER_ON, with the levels of the straps CFGR3 to CFGR0 (bit m is CFGRm) and EPM. -/
  | powerOn (cfgr : BitVec 4) (epm : Bool)
  /-- RESET_PIN: RESET_N goes low, with the levels of the straps. -/
  | resetPin (cfgr : BitVec 4) (epm : Bool)
  | linkOpen (m : Fin 4) (noticeMode keep : Byte)
  | presence (m : Fin 4)
  /-- ADMIT. -/
  | admitRequest (m : Fin 4) (tag : Half) (code units mode : Byte)
  | commit (m : Fin 4) (tag handle : Half)
  | release (m : Fin 4) (tag handle : Half)
  | cancel (m : Fin 4) (tag target : Half)
  | queryCarrier (m : Fin 4) (tag index : Half)
  | queryGroup (m : Fin 4) (tag index : Half)
  | queryClass (m : Fin 4) (tag index : Half)
  | queryWaiting (m : Fin 4) (tag index : Half)
  | queryCase (m : Fin 4) (tag index : Half)
  | queryEpoch (m : Fin 4) (tag index : Half)
  | queryMaster (m : Fin 4) (tag index : Half)
  /-- QUERY_GRANT: the index is a handle. -/
  | queryGrant (m : Fin 4) (tag index : Half)
  | queryGrantTable (m : Fin 4) (tag index : Half)
  | configCarrier (m : Fin 4) (tag : Half) (index state : Byte) (nominal guard : Half)
  /-- CONFIG_GROUP: the member count byte and the member bytes the frame carries (at most 12 are needed, R170). -/
  | configGroup (m : Fin 4) (tag : Half) (index mode count : Byte) (members : List Byte)
  | configClass (m : Fin 4) (tag : Half) (index valid level group maxUnits : Byte) (holdLimit waitLimit : Half)
      (gate thin preempt : Byte)
  | configMaster (m : Fin 4) (tag : Half) (index : Byte) (guaranteed ceiling : Half) (pendingLimit : Byte)
      (releaseDeadline silencePeriod orphanDelay : Half) (noticeMode : Byte)
  | configThresholdSet (m : Fin 4) (tag : Half) (index riseOccupancy riseWaiting fallOccupancy fallWaiting : Byte)
  | configFallPersistence (m : Fin 4) (tag : Half) (index value : Byte)
  | configEpochInterval (m : Fin 4) (tag : Half) (index : Byte) (value : Half)
  | configThinRatio (m : Fin 4) (tag : Half) (index value : Byte)
  | configRadioSilencePeriod (m : Fin 4) (tag : Half) (index : Byte) (value : Half)
  | clearFault (m : Fin 4) (tag : Half) (flags : Byte)
  | clearState (m : Fin 4) (tag : Half)
  | clearFull (m : Fin 4) (tag : Half)
  /-- CLEAR_STATS: a master 0 to 3, or 0xFF for ALL. -/
  | clearStats (m : Fin 4) (tag : Half) (target : Byte)
  | frameFault (m : Fin 4)
  | receiveBufferOverflow (m : Fin 4)
  | radioOpen (tag : Half)
  /-- CARRIER_REPORT: 0xFFFF available is DOWN. -/
  | carrierReport (carrier : Byte) (available : Half)
  | epochTick (number : Byte)
  | radioFrameFault
  | holdExpiry (handle : Half)
  /-- WAIT_EXPIRY of the waiting entry of master `m` under `tag` (no two entries of one master share a tag, R72). -/
  | waitExpiry (m : Fin 4) (tag : Half)
  | recallDeadlineExpiry (handle : Half)
  | silenceExpiry (m : Fin 4)
  | orphanStage1 (m : Fin 4)
  | orphanStage2 (m : Fin 4)
  | radioSilenceExpiry
  | intervalTimerExpiry
  | lossTimerExpiry
  /-- SUSPENSION after an outbound overrun. -/
  | suspension (m : Fin 4)
  | outboundSend (m : Fin 4)
  | radioOutboundSend
  | pinResetEnd
  | radioReceiveBufferOverflow
  | outboundFrameSent (m : Fin 4)
  | configUnknownTable (m : Fin 4) (tag : Half) (table index : Byte)
  | queryUnknownKind (m : Fin 4) (tag : Half) (kind : Byte) (index : Half)
  | deviceClearUnknownDepth (m : Fin 4) (tag : Half) (depth : Byte)
  deriving DecidableEq, Repr

end Sys2Proof
end

