-- ==== Sys2Proof/WellFormed.lean ====
section
/-! DEFINITION. Which terms of Instr are commands of the table: every frame field may hold every value (R175: a value
the tables do not list is refused by the block that serves the frame, it is no other frame), so only four rows check. -/

namespace Sys2Proof

/-- The member bytes a group write needs: as many as its count gives, up to 12 (R170). -/
def memberBytesNeeded (count : Byte) : Nat := min count.toNat 12

/-- The row a term stands for is the row its operands spell: a group write carries the member bytes its count needs
(R170), an unknown table, kind or depth is none of those listed (R170, R175). -/
def WellFormed : Instr → Bool
  | .configGroup _ _ _ _ count members => members.length == memberBytesNeeded count
  | .configUnknownTable _ _ table _ => table.toNat == 0 || decide (9 < table.toNat)
  | .queryUnknownKind _ _ kind _ => kind.toNat == 0 || decide (9 < kind.toNat)
  | .deviceClearUnknownDepth _ _ depth => depth.toNat != 1 && depth.toNat != 2
  | .powerOn .. | .resetPin .. | .linkOpen .. | .presence .. | .admitRequest .. | .commit .. | .release ..
  | .cancel .. | .queryCarrier .. | .queryGroup .. | .queryClass .. | .queryWaiting .. | .queryCase ..
  | .queryEpoch .. | .queryMaster .. | .queryGrant .. | .queryGrantTable .. | .configCarrier .. | .configClass ..
  | .configMaster .. | .configThresholdSet .. | .configFallPersistence .. | .configEpochInterval ..
  | .configThinRatio .. | .configRadioSilencePeriod .. | .clearFault .. | .clearState .. | .clearFull ..
  | .clearStats .. | .frameFault .. | .receiveBufferOverflow .. | .radioOpen .. | .carrierReport .. | .epochTick ..
  | .radioFrameFault | .holdExpiry .. | .waitExpiry .. | .recallDeadlineExpiry .. | .silenceExpiry ..
  | .orphanStage1 .. | .orphanStage2 .. | .radioSilenceExpiry | .intervalTimerExpiry | .lossTimerExpiry
  | .suspension .. | .outboundSend .. | .radioOutboundSend | .pinResetEnd | .radioReceiveBufferOverflow
  | .outboundFrameSent .. => true

end Sys2Proof
end

