-- ==== Sys2Proof/Decode.lean ====
section
/-! DEFINITION. The commands that a word spells by the bits of spec/opcode_table.json: no row of that table has bits
("fields" is empty in every row), so no word spells a command. The frames' bytes are read by Machine/Wire.lean. -/

namespace Sys2Proof

/-- The command that a word of `nbits` bits spells by the opcode table's bits: none, since the table gives no row any
(log 19). -/
def decodeTableWord (_nbits _w : Nat) : Option Instr := none

end Sys2Proof
end

