-- ==== Sys2Proof/Machine/State.lean ====
section
/-! DEFINITION. The state of the part, block by block as 00_scope.md lists the blocks, and its values after reset.
Quantities the spec derives (effective, occupied, recall-pending, units of a master) or defines as a sum or a count of
other records (earmarked, pending count, store counts) are computed from those records in Machine/Ops.lean (log 5). -/

namespace Sys2Proof.Machine

/-- A cell controller and its link, 0 to 3. -/
abbrev MasterId := Fin 4
/-- A carrier, C0 to C11. -/
abbrev CarrierId := Fin 12
/-- A carrier group, G0 to G15. -/
abbrev GroupId := Fin 16
/-- A case number, 0 to 7. -/
abbrev CaseId := Fin 8
/-- An entry of the Grant Table. -/
abbrev GrantIndex := Fin 1024
/-- A value of the millisecond timebase, or a deadline formed from one (R126). -/
abbrev Time := Nat

/-- Priority levels, highest first (00 section 5.2). -/
inductive Level where | e | p1 | p2 | p3
  deriving DecidableEq, Repr

/-- Overload levels (R135). -/
inductive Load where | normal | strained | congested | critical
  deriving DecidableEq, Repr

/-- The overload level from which a class is refused GATED (R25). -/
inductive Gate where | none | strained | congested | critical
  deriving DecidableEq, Repr

/-- The mode of an ADMIT: whether its grant starts HELD or ACTIVE (R47). -/
inductive AdmitMode where | hold | direct
  deriving DecidableEq, Repr

inductive NoticeMode where | full | quiet
  deriving DecidableEq, Repr

inductive KeepChoice where | keep | forget
  deriving DecidableEq, Repr

/-- OFF, OPEN, DRAINING (R2). -/
inductive CarrierState where | off | opened | draining
  deriving DecidableEq, Repr

inductive GroupMode where | firstFit | leastLoaded
  deriving DecidableEq, Repr

/-- States of a master link (R142). -/
inductive LinkState where | down | up | stale | orphaned | suspended
  deriving DecidableEq, Repr

/-- States of the radio link (R156). -/
inductive RadioState where | down | up | stale
  deriving DecidableEq, Repr

/-- The cause of a link's last opening (R146). -/
inductive LinkCause where | new | reopen | afterSuspend | afterOrphan
  deriving DecidableEq, Repr

inductive SuspendReason where | frameFaults | outboundOverrun
  deriving DecidableEq, Repr

/-- The cause of the part's most recent reset or clear (R147). -/
inductive ResetCause where | powerOn | resetPin | clearState | clearFull
  deriving DecidableEq, Repr

inductive RecallCause where | preempt | shed
  deriving DecidableEq, Repr

/-- Why a grant was revoked (R57). -/
inductive RevokeCause where | deadline | holdExpired | holdBroken | orphan
  deriving DecidableEq, Repr

/-- Epoch states (R127). -/
inductive EpochState where | source | follow | followLost
  deriving DecidableEq, Repr

/-- The marker of an EPOCH notice (R138). -/
inductive EpochMarker where | none | slip | resync
  deriving DecidableEq, Repr

/-- The place of a QUEUED notice: WAITING or CASE. -/
inductive Place where | waiting | inCase
  deriving DecidableEq, Repr

/-- What became of a case's victim (R86). -/
inductive VictimState where | notified | released | revoked
  deriving DecidableEq, Repr

/-- The stage of a running orphan timer (R142). -/
inductive OrphanStage where | one | two
  deriving DecidableEq, Repr

/-- The state of a grant entry as frames show it (R43, R174). -/
inductive GrantState where | free | held | active | recalled | revoked
  deriving DecidableEq, Repr

/-- The outcomes of an ANSWER (R173). -/
inductive AnswerCode where
  | admitted | committed | released | done | unmapped | excessUnits | duplicateTag | pendingLimit | gated | thinned
  | quotaCeiling | tableFull | noCapacity | storeFull | waitExpired | cancelled | noSuchRequest | noSuchGrant
  | notOwner | wrongState | tooLate | noRight | configConflict | outOfRange
  deriving DecidableEq, Repr

/-- The three fault flags of a master (R155). -/
inductive FaultFlag where | keyFault | frameFault | quotaExcess
  deriving DecidableEq, Repr

/-- A set of fault flags (R142). -/
structure FaultFlags where
  keyFault : Bool := false
  frameFault : Bool := false
  quotaExcess : Bool := false
  deriving DecidableEq, Repr

/-- The name of a grant: its entry's index and the entry's generation (R44). -/
structure Handle where
  gen : Fin 64
  index : GrantIndex
  deriving DecidableEq, Repr

/-- One field of a QUERY_REPLY, by its width in bytes (R171). -/
inductive ReplyField where
  | b1 (v : BitVec 8)
  | b2 (v : BitVec 16)
  | b4 (v : BitVec 32)
  | b6 (v : BitVec 48)
  deriving DecidableEq, Repr

/-- The frames the part sends on a master link (R171); the tag of a frame whose tag is 0 is left out (R169). -/
inductive OutFrame where
  | hello (resetCause : ResetCause) (linkCause : Option LinkCause) (suspendReason : Option SuspendReason)
      (epoch : Fin 64) (level : Load) (flags : FaultFlags) (revision : Nat)
  | answer (tag : Half) (outcome : AnswerCode) (handle : Option Handle) (carrier : Option CarrierId)
      (state : Option GrantState) (flags : Option FaultFlags)
  | queryReply (tag : Half) (kind : Byte) (index : Half) (part : Nat) (last : Bool) (fields : List ReplyField)
  | recallNotice (handle : Handle) (cause : RecallCause) (releaseDeadline : Nat)
  | revokedNotice (handle : Handle) (cause : RevokeCause)
  | moveAdvised (handle : Handle)
  | fault (flags : FaultFlags)
  | queued (tag : Half) (place : Place)
  | epoch (number : Fin 64) (level : Load) (marker : EpochMarker)
  | level (old new : Load)
  | radioStale
  deriving DecidableEq, Repr

/-- The frames the part sends on the radio link (R172); an OCCUPANCY holds occupied and effective of C0 to C11. -/
inductive RadioFrame where
  | radioHello (tag : Half) (resetCause : ResetCause) (epoch : Fin 64)
  | occupancy (epoch : Fin 64) (values : List (Nat × Nat))
  deriving DecidableEq, Repr

/-- A master link port (R142). A stopped timer is none. -/
structure Port where
  link : LinkState
  silence : Option Time
  orphan : Option (Time × OrphanStage)
  frameFaults : Nat
  /-- What arrived while an earlier frame of the link was being served or waited, in arrival order: valid frames (R145), and
  FRAME_FAULT for each fault that is counted in its turn (R155, log 33). -/
  rxBuffer : List Instr
  queue : List OutFrame
  /-- The frame whose sending has begun and is not finished (R152). -/
  sending : Option OutFrame
  noticeMode : NoticeMode
  flags : FaultFlags
  lastCause : Option LinkCause
  suspendReason : Option SuspendReason
  configRight : Bool
  /-- Overrun pending (R153). -/
  overrun : Bool
  deriving DecidableEq, Repr

/-- The Radio Link Port (R156, R157). -/
structure RadioPort where
  link : RadioState
  silence : Option Time
  /-- Frames waiting, as in a master port (R156). -/
  rxBuffer : List Instr
  queue : List RadioFrame
  silencePeriod : Nat
  deriving DecidableEq, Repr

/-- An entry of the class map (R25). -/
structure ServiceClass where
  valid : Bool
  level : Level
  group : GroupId
  maxUnits : Nat
  holdLimit : Nat
  waitLimit : Nat
  gate : Gate
  thin : Bool
  preempt : Bool
  deriving DecidableEq, Repr

/-- The Intake Classifier (R25, R35, R37). -/
structure Intake where
  classes : Vector ServiceClass 64
  thinRatio : Nat
  thinning : Vector (Vector Nat 64) 4
  deriving DecidableEq, Repr

/-- A carrier record's held fields (R1). -/
structure Carrier where
  state : CarrierState
  nominal : Nat
  guard : Nat
  reported : Option Nat
  occupancy : List Handle
  marks : List Handle
  isOver : Bool
  deriving DecidableEq, Repr

/-- A carrier group; with an empty member list it is invalid (R15). -/
structure Group where
  members : List CarrierId
  mode : Option GroupMode
  deriving DecidableEq, Repr

/-- A master's record (R17, R160) but for the notice mode, which its port holds; and its QUOTA_EXCESS condition (R19). -/
structure MasterRecord where
  guaranteed : Nat
  ceiling : Nat
  pendingLimit : Nat
  releaseDeadline : Nat
  silencePeriod : Nat
  orphanDelay : Nat
  quotaExcess : Bool
  deriving DecidableEq, Repr

/-- The Capacity Pool. -/
structure Pool where
  carriers : Vector Carrier 12
  groups : Vector Group 16
  masters : Vector MasterRecord 4
  deriving DecidableEq, Repr

/-- The state of a grant that is not FREE, with the fields present in it (R43). -/
inductive GrantPhase where
  | held (holdDeadline : Time)
  | active
  | recalled (cause : RecallCause) (recallDeadline : Time) (attached : Option CaseId)
  | revoked (cause : RevokeCause)
  deriving DecidableEq, Repr

/-- A grant record (R43). -/
structure Grant where
  owner : MasterId
  tag : Half
  code : Fin 64
  level : Level
  carrier : CarrierId
  units : Nat
  phase : GrantPhase
  deriving DecidableEq, Repr

/-- A Grant Table entry; with no grant it is FREE. -/
structure Entry where
  gen : Fin 64
  grant : Option Grant
  deriving DecidableEq, Repr

/-- The Grant Table (R43, R45, R60). -/
structure GrantTable where
  entries : Vector Entry 1024
  freeQueue : List GrantIndex
  tombstones : Vector (List Handle) 4
  deriving DecidableEq, Repr

/-- The Admission Engine's own state (R63, R66, R68). -/
structure Engine where
  p1Pointer : MasterId
  p2Pointer : MasterId
  due : List CarrierId
  retryDue : Bool
  deriving DecidableEq, Repr

/-- A request past intake, with the values copied from its class (R38, R70, R86). -/
structure Request where
  owner : MasterId
  tag : Half
  code : Fin 64
  level : Level
  group : GroupId
  units : Nat
  mode : AdmitMode
  holdLimit : Nat
  waitLimit : Nat
  preempt : Bool
  deriving DecidableEq, Repr

/-- A waiting entry (R70). -/
structure WaitEntry where
  req : Request
  deadline : Time
  deriving DecidableEq, Repr

/-- The Waiting Lists (R72). -/
structure Waiting where
  eList : List WaitEntry
  p1Lists : Vector (List WaitEntry) 4
  p2Lists : Vector (List WaitEntry) 4
  deriving DecidableEq, Repr

/-- A victim record of a case (R86). -/
structure Victim where
  handle : Handle
  units : Nat
  state : VictimState
  deriving DecidableEq, Repr

/-- A COLLECTING case (R86). -/
structure Case where
  req : Request
  target : CarrierId
  earmark : Nat
  victims : List Victim
  openedAt : Time
  deriving DecidableEq, Repr

/-- A carrier's shed record (R123). -/
structure ShedRecord where
  deficit : Nat
  holdsBroken : Nat
  grantsRecalled : Nat
  grantsAdvised : Nat
  casesRolledBack : Nat
  deriving DecidableEq, Repr

/-- The Recall Unit: the case table (a FREE record is none), the COLLECTING cases oldest first (R87, log 9), and the
shed records. -/
structure Recall where
  cases : Vector (Option Case) 8
  age : List CaseId
  shed : Vector ShedRecord 12
  deriving DecidableEq, Repr

/-- One count for each level. -/
structure PerLevel where
  e : Nat
  p1 : Nat
  p2 : Nat
  p3 : Nat
  deriving DecidableEq, Repr

/-- The per-epoch counters (R132). -/
structure Counters where
  arrivals : PerLevel
  noCapacity : PerLevel
  casesOpened : Nat
  eQueued : Nat
  deriving DecidableEq, Repr

/-- The record of the last evaluation (R140). -/
structure EvalRecord where
  number : Fin 64
  time : Time
  occupancyPercent : Nat
  waitingDepth : Nat
  ePressure : Bool
  levelBefore : Load
  levelAfter : Load
  fallCount : Nat
  counters : Counters
  deriving DecidableEq, Repr

/-- The thresholds of one step up and its step down (R135). -/
structure ThresholdSet where
  riseOccupancy : Nat
  riseWaiting : Nat
  fallOccupancy : Nat
  fallWaiting : Nat
  deriving DecidableEq, Repr

/-- The Epoch and Load Unit. -/
structure EpochUnit where
  timebase : Time
  number : Fin 64
  state : EpochState
  intervalTimer : Option Time
  lossTimer : Option Time
  slips : Nat
  level : Load
  fallCount : Nat
  counters : Counters
  lastEval : EvalRecord
  thresholds : Vector ThresholdSet 3
  fallPersistence : Nat
  epochInterval : Nat
  deriving DecidableEq, Repr

/-- The strap levels last sampled (00 section 7): bit m of `cfgr` is CFGRm. -/
structure Straps where
  cfgr : BitVec 4
  epm : Bool
  deriving DecidableEq, Repr

/-- A master's statistics counters, 32 bits, wrapping (R163). -/
structure Stats where
  admitted : BitVec 32
  refused : BitVec 32
  recalled : BitVec 32
  revoked : BitVec 32
  deriving DecidableEq, Repr

/-- The Configuration Responder. -/
structure Responder where
  straps : Straps
  stats : Vector Stats 4
  resetCause : ResetCause
  deriving DecidableEq, Repr

/-- The state of the part. `resetHeld`: RESET_N is low. `pending`: the commands waiting to be served, first in, first
out. -/
structure State where
  ports : Vector Port 4
  radio : RadioPort
  intake : Intake
  pool : Pool
  table : GrantTable
  engine : Engine
  waiting : Waiting
  recallUnit : Recall
  epoch : EpochUnit
  responder : Responder
  resetHeld : Bool
  pending : List Instr
  deriving DecidableEq, Repr

/-- The reasons the part stops with a fault: the spec names none, so there is none. -/
inductive Fault where
  deriving DecidableEq, Repr

/-- The reasons a command is refused. -/
inductive Refusal where
  /-- Raised by exec's arms alone, for a command that has no meaning yet. Safe: the model stops where the part goes on. -/
  | notModelled (mnemonic : String)
  deriving DecidableEq, Repr

/-- Every entry index, in index order (R45). -/
def GrantTable.allIndexes : List GrantIndex := (List.range 1024).map (Fin.ofNat 1024)

/-- A class map entry after a reset (R25). -/
def ServiceClass.initial : ServiceClass :=
  { valid := false, level := .p2, group := 0, maxUnits := 1, holdLimit := 5000, waitLimit := 2000, gate := .none,
    thin := false, preempt := false }

/-- A carrier record after a reset (R24). -/
def Carrier.initial : Carrier :=
  { state := .off, nominal := 0, guard := 0, reported := none, occupancy := [], marks := [], isOver := false }

/-- A master record after a reset (R160), with the QUOTA_EXCESS condition false (R24). -/
def MasterRecord.initial : MasterRecord :=
  { guaranteed := 0, ceiling := 12276, pendingLimit := 32, releaseDeadline := 250, silencePeriod := 2000,
    orphanDelay := 10000, quotaExcess := false }

/-- A port after a reset (R142), with the transmitter idle (log 12). -/
def Port.initial (configRight : Bool) : Port :=
  { link := .down, silence := none, orphan := none, frameFaults := 0, rxBuffer := [], queue := [], sending := none,
    noticeMode := .full, flags := {}, lastCause := none, suspendReason := none, configRight := configRight,
    overrun := false }

def ShedRecord.zero : ShedRecord :=
  { deficit := 0, holdsBroken := 0, grantsRecalled := 0, grantsAdvised := 0, casesRolledBack := 0 }

def PerLevel.zero : PerLevel := { e := 0, p1 := 0, p2 := 0, p3 := 0 }

def Counters.zero : Counters := { arrivals := .zero, noCapacity := .zero, casesOpened := 0, eQueued := 0 }

/-- The record of the last evaluation when none has been made: zeros and level NORMAL in both places (R140). -/
def EvalRecord.cleared : EvalRecord :=
  { number := 0, time := 0, occupancyPercent := 0, waitingDepth := 0, ePressure := false, levelBefore := .normal,
    levelAfter := .normal, fallCount := 0, counters := .zero }

def Stats.zero : Stats := { admitted := 0, refused := 0, recalled := 0, revoked := 0 }

/-- The right of port m by the straps: its CFGR strap reads high; or all four read low and m is 0 (R142). -/
def Straps.right (t : Straps) (m : MasterId) : Bool :=
  t.cfgr.getLsbD m.val || (t.cfgr == 0 && m == 0)

/-- The Recall Unit with every case FREE and every shed record 0 (R109, R125). -/
def Recall.initial : Recall :=
  { cases := Vector.replicate 8 none, age := [], shed := Vector.replicate 12 ShedRecord.zero }

/-- The Waiting Lists, empty (R85). -/
def Waiting.initial : Waiting :=
  { eList := [], p1Lists := Vector.replicate 4 [], p2Lists := Vector.replicate 4 [] }

/-- The engine's own state after every reset and clear (R69). -/
def Engine.initial : Engine := { p1Pointer := 0, p2Pointer := 0, due := [], retryDue := false }

/-- The Epoch and Load Unit after a reset: the timer of the state EPM gives runs from timebase 0 (R127, R141). -/
def EpochUnit.initial (epm : Bool) : EpochUnit :=
  { timebase := 0, number := 0, state := if epm then .follow else .source,
    intervalTimer := if epm then none else some 1000, lossTimer := if epm then some 3000 else none, slips := 0,
    level := .normal, fallCount := 0, counters := .zero, lastEval := .cleared,
    thresholds := #v[⟨70, 8, 60, 2⟩, ⟨85, 32, 75, 16⟩, ⟨95, 96, 88, 64⟩], fallPersistence := 3, epochInterval := 1000 }

/-- The part after a POWER_ON, a pin reset or a CLEAR_FULL, each block by its own rule: R24, R42, R69, R85, R109, R125,
R141, R142, R157, R160, R163. -/
def State.initial (cause : ResetCause) (straps : Straps) : State :=
  { ports := #v[.initial (straps.right 0), .initial (straps.right 1), .initial (straps.right 2), .initial (straps.right 3)]
    radio := { link := .down, silence := none, rxBuffer := [], queue := [], silencePeriod := 1000 }
    intake := { classes := Vector.replicate 64 .initial, thinRatio := 4,
                thinning := Vector.replicate 4 (Vector.replicate 64 0) }
    pool := { carriers := Vector.replicate 12 .initial, groups := Vector.replicate 16 ⟨[], none⟩,
              masters := Vector.replicate 4 .initial }
    table := { entries := Vector.replicate 1024 ⟨0, none⟩, freeQueue := GrantTable.allIndexes,
               tombstones := Vector.replicate 4 [] }
    engine := .initial
    waiting := .initial
    recallUnit := .initial
    epoch := .initial straps.epm
    responder := { straps := straps, stats := Vector.replicate 4 .zero, resetCause := cause }
    resetHeld := false
    pending := [] }

/-- The part right after a power-on whose straps all read low (log 1). -/
def State.reset : State := .initial .powerOn { cfgr := 0, epm := false }

end Sys2Proof.Machine
end

