-- ==== Sys2Proof/Machine/Operands.lean ====
section
/-! DEFINITION. The codes of frame fields and what they stand for (10_frame_formats_and_codes.md, R173 to R175), and the
numbers and handles carried in frames. A code the tables do not list has no value. -/

namespace Sys2Proof.Machine

/-- The number a field holds, when it is below `n`: a carrier, group, case, master, step or service code. -/
def numberBelow (n v : Nat) : Option (Fin n) := if h : v < n then some ⟨v, h⟩ else none

/-- The handle a 16-bit field names: generation above, index in the lower 10 bits (R44). -/
def Handle.ofBits (w : Half) : Handle := ⟨(w.extractLsb' 10 6).toFin, (w.extractLsb' 0 10).toFin⟩

/-- The value of a handle: generation x 1024 + index (R44). -/
def Handle.toBits (h : Handle) : Half := BitVec.ofNat 16 (h.gen.val * 1024 + h.index.val)

/-! Codes of fields the part receives (R175). -/

def Level.ofCode (b : Byte) : Option Level :=
  match b.toNat with
  | 0 => some .e
  | 1 => some .p1
  | 2 => some .p2
  | 3 => some .p3
  | _ => none

def Gate.ofCode (b : Byte) : Option Gate :=
  match b.toNat with
  | 0 => some .none
  | 1 => some .strained
  | 2 => some .congested
  | 3 => some .critical
  | _ => none

def AdmitMode.ofCode (b : Byte) : Option AdmitMode :=
  match b.toNat with
  | 1 => some .hold
  | 2 => some .direct
  | _ => none

def NoticeMode.ofCode (b : Byte) : Option NoticeMode :=
  match b.toNat with
  | 1 => some .full
  | 2 => some .quiet
  | _ => none

def KeepChoice.ofCode (b : Byte) : Option KeepChoice :=
  match b.toNat with
  | 1 => some .keep
  | 2 => some .forget
  | _ => none

def CarrierState.ofCode (b : Byte) : Option CarrierState :=
  match b.toNat with
  | 0 => some .off
  | 1 => some .opened
  | 2 => some .draining
  | _ => none

def GroupMode.ofCode (b : Byte) : Option GroupMode :=
  match b.toNat with
  | 1 => some .firstFit
  | 2 => some .leastLoaded
  | _ => none

/-- valid, thin, preempt: 0 no, 1 yes. -/
def yesNo (b : Byte) : Option Bool :=
  match b.toNat with
  | 0 => some false
  | 1 => some true
  | _ => none

/-- The flags a CLEAR_FAULT names; the other bits are ignored when received (R175). -/
def FaultFlags.ofBits (b : Byte) : FaultFlags := ⟨b.getLsbD 0, b.getLsbD 1, b.getLsbD 2⟩

/-! Codes of fields the part sends (R173 to R175). -/

def Level.code : Level → Byte
  | .e => 0
  | .p1 => 1
  | .p2 => 2
  | .p3 => 3

def Load.code : Load → Byte
  | .normal => 0
  | .strained => 1
  | .congested => 2
  | .critical => 3

def Gate.code : Gate → Byte
  | .none => 0
  | .strained => 1
  | .congested => 2
  | .critical => 3

def AdmitMode.code : AdmitMode → Byte
  | .hold => 1
  | .direct => 2

def NoticeMode.code : NoticeMode → Byte
  | .full => 1
  | .quiet => 2

def CarrierState.code : CarrierState → Byte
  | .off => 0
  | .opened => 1
  | .draining => 2

def GroupMode.code : GroupMode → Byte
  | .firstFit => 1
  | .leastLoaded => 2

def yesNoCode (b : Bool) : Byte := if b then 1 else 0

def FaultFlags.code (f : FaultFlags) : Byte :=
  (if f.keyFault then 1 else 0) + (if f.frameFault then 2 else 0) + (if f.quotaExcess then 4 else 0)

def ResetCause.code : ResetCause → Byte
  | .powerOn => 1
  | .resetPin => 2
  | .clearState => 3
  | .clearFull => 4

/-- A link that was never opened sends no HELLO; its cause would read 0. -/
def linkCauseCode : Option LinkCause → Byte
  | none => 0
  | some .new => 1
  | some .reopen => 2
  | some .afterSuspend => 3
  | some .afterOrphan => 4

def suspendReasonCode : Option SuspendReason → Byte
  | none => 0
  | some .frameFaults => 1
  | some .outboundOverrun => 2

def RecallCause.code : RecallCause → Byte
  | .preempt => 1
  | .shed => 2

def RevokeCause.code : RevokeCause → Byte
  | .deadline => 1
  | .holdExpired => 2
  | .holdBroken => 3
  | .orphan => 4

def GrantState.code : GrantState → Byte
  | .free => 0
  | .held => 1
  | .active => 2
  | .recalled => 3
  | .revoked => 4

def Place.code : Place → Byte
  | .waiting => 1
  | .inCase => 2

def EpochMarker.code : EpochMarker → Byte
  | .none => 0
  | .slip => 1
  | .resync => 2

def VictimState.code : VictimState → Byte
  | .notified => 1
  | .released => 2
  | .revoked => 3

def LinkState.code : LinkState → Byte
  | .down => 0
  | .up => 1
  | .stale => 2
  | .orphaned => 3
  | .suspended => 4

def EpochState.code : EpochState → Byte
  | .source => 0
  | .follow => 1
  | .followLost => 2

def AnswerCode.code : AnswerCode → Byte
  | .admitted => 0x00
  | .committed => 0x01
  | .released => 0x02
  | .done => 0x03
  | .unmapped => 0x10
  | .excessUnits => 0x11
  | .duplicateTag => 0x12
  | .pendingLimit => 0x13
  | .gated => 0x14
  | .thinned => 0x15
  | .quotaCeiling => 0x16
  | .tableFull => 0x17
  | .noCapacity => 0x18
  | .storeFull => 0x19
  | .waitExpired => 0x1A
  | .cancelled => 0x1B
  | .noSuchRequest => 0x1C
  | .noSuchGrant => 0x1D
  | .notOwner => 0x1E
  | .wrongState => 0x1F
  | .tooLate => 0x20
  | .noRight => 0x21
  | .configConflict => 0x22
  | .outOfRange => 0x23

/-! Orders and classes of names. -/

/-- Place in the order E, P1, P2, P3; a larger rank is a lower level. -/
def Level.rank : Level → Nat
  | .e => 0
  | .p1 => 1
  | .p2 => 2
  | .p3 => 3

/-- `a` is of strictly lower level than `b` (00 section 5.2). -/
def Level.lowerThan (a b : Level) : Bool := decide (b.rank < a.rank)

/-- Place in the order NORMAL, STRAINED, CONGESTED, CRITICAL. -/
def Load.rank : Load → Nat
  | .normal => 0
  | .strained => 1
  | .congested => 2
  | .critical => 3

/-- A request of a class with this gate is refused GATED at the level (R34). -/
def Gate.closedAt (g : Gate) (l : Load) : Bool :=
  match g with
  | .none => false
  | .strained => decide (1 ≤ l.rank)
  | .congested => decide (2 ≤ l.rank)
  | .critical => decide (3 ≤ l.rank)

/-- The state of a grant as frames show it (R43). -/
def GrantPhase.shown : GrantPhase → GrantState
  | .held _ => .held
  | .active => .active
  | .recalled .. => .recalled
  | .revoked _ => .revoked

/-- Advisory notices (R152); every other frame is an answer or an action notice. -/
def OutFrame.isAdvisory : OutFrame → Bool
  | .queued .. => true
  | .epoch .. => true
  | .level .. => true
  | .radioStale => true
  | .hello .. | .answer .. | .queryReply .. | .recallNotice .. | .revokedNotice .. | .moveAdvised .. | .fault .. =>
    false

def RadioFrame.isOccupancy : RadioFrame → Bool
  | .occupancy .. => true
  | .radioHello .. => false

def FaultFlags.has (f : FaultFlags) : FaultFlag → Bool
  | .keyFault => f.keyFault
  | .frameFault => f.frameFault
  | .quotaExcess => f.quotaExcess

def FaultFlags.insert (f : FaultFlags) : FaultFlag → FaultFlags
  | .keyFault => { f with keyFault := true }
  | .frameFault => { f with frameFault := true }
  | .quotaExcess => { f with quotaExcess := true }

def PerLevel.get (p : PerLevel) : Level → Nat
  | .e => p.e
  | .p1 => p.p1
  | .p2 => p.p2
  | .p3 => p.p3

/-- One more, staying at 65535 (R132). -/
def countUp (n : Nat) : Nat := min (n + 1) Config.counterLimit

/-- One more of a level. -/
def PerLevel.bump (p : PerLevel) : Level → PerLevel
  | .e => { p with e := countUp p.e }
  | .p1 => { p with p1 := countUp p.p1 }
  | .p2 => { p with p2 := countUp p.p2 }
  | .p3 => { p with p3 := countUp p.p3 }

end Sys2Proof.Machine
end

