-- ==== Sys2Proof/Machine/Ops.lean ====
section
/-! DEFINITION. The named operations over the records: one update for each kind of record, the derived quantities of the
pool (01, R3 to R6, R16, R17), the counts (R32, R70), the outbound queue (R152, R153), answers and counters. -/

namespace Sys2Proof.Machine

/-- Every carrier in number order. -/
def allCarriers : List CarrierId := [0, 1, 2, 3, 4, 5, 6, 7, 8, 9, 10, 11]

/-- Every master in number order. -/
def allMasters : List MasterId := [0, 1, 2, 3]

/-- Every case number in order. -/
def allCases : List CaseId := [0, 1, 2, 3, 4, 5, 6, 7]

/-- The units an entry adds to a master's count of the levels `p` picks: those of a grant in HELD, ACTIVE or RECALLED
(R17). -/
def Entry.unitsFor (m : MasterId) (p : Level → Bool) (e : Entry) : Nat :=
  match e.grant with
  | some g => if g.owner = m ∧ p g.level ∧ g.phase.shown ≠ .revoked then g.units else 0
  | none => 0

namespace State

/-! ### One update for each kind of record -/

def modPort (s : State) (m : MasterId) (f : Port → Port) : State :=
  { s with ports := put s.ports m (f (look s.ports m)) }

def modCarrier (s : State) (c : CarrierId) (f : Carrier → Carrier) : State :=
  { s with pool := { s.pool with carriers := put s.pool.carriers c (f (look s.pool.carriers c)) } }

def modMaster (s : State) (m : MasterId) (f : MasterRecord → MasterRecord) : State :=
  { s with pool := { s.pool with masters := put s.pool.masters m (f (look s.pool.masters m)) } }

def setEntry (s : State) (i : GrantIndex) (e : Entry) : State :=
  { s with table := { s.table with entries := put s.table.entries i e } }

def modTombstones (s : State) (m : MasterId) (f : List Handle → List Handle) : State :=
  { s with table := { s.table with tombstones := put s.table.tombstones m (f (look s.table.tombstones m)) } }

def setFreeQueue (s : State) (q : List GrantIndex) : State := { s with table := { s.table with freeQueue := q } }

def setCase (s : State) (k : CaseId) (x : Option Case) : State :=
  { s with recallUnit := { s.recallUnit with cases := put s.recallUnit.cases k x } }

def modCase (s : State) (k : CaseId) (f : Case → Case) : State :=
  s.setCase k ((look s.recallUnit.cases k).map f)

def setAge (s : State) (l : List CaseId) : State := { s with recallUnit := { s.recallUnit with age := l } }

def modShed (s : State) (c : CarrierId) (f : ShedRecord → ShedRecord) : State :=
  { s with recallUnit := { s.recallUnit with shed := put s.recallUnit.shed c (f (look s.recallUnit.shed c)) } }

def modStats (s : State) (m : MasterId) (f : Stats → Stats) : State :=
  { s with responder := { s.responder with stats := put s.responder.stats m (f (look s.responder.stats m)) } }

def modEngine (s : State) (f : Engine → Engine) : State := { s with engine := f s.engine }

def modEpoch (s : State) (f : EpochUnit → EpochUnit) : State := { s with epoch := f s.epoch }

def modCounters (s : State) (f : Counters → Counters) : State :=
  { s with epoch := { s.epoch with counters := f s.epoch.counters } }

def modWaiting (s : State) (f : Waiting → Waiting) : State := { s with waiting := f s.waiting }

def modRadio (s : State) (f : RadioPort → RadioPort) : State := { s with radio := f s.radio }

/-! ### Reads -/

def port (s : State) (m : MasterId) : Port := look s.ports m

def carrier (s : State) (c : CarrierId) : Carrier := look s.pool.carriers c

def group (s : State) (g : GroupId) : Group := look s.pool.groups g

def master (s : State) (m : MasterId) : MasterRecord := look s.pool.masters m

def caseAt (s : State) (k : CaseId) : Option Case := look s.recallUnit.cases k

def now (s : State) : Time := s.epoch.timebase

/-- The grant a handle matches: the entry is not FREE and its generation is the handle's (R44). -/
def grantAt (s : State) (h : Handle) : Option Grant :=
  let e := look s.table.entries h.index
  if e.gen = h.gen then e.grant else none

/-- The same entry, with another record in it. -/
def setGrant (s : State) (h : Handle) (g : Grant) : State :=
  s.setEntry h.index { look s.table.entries h.index with grant := some g }

/-! ### Derived quantities of the pool -/

/-- R3: nominal when nothing is reported, else the lesser of the two. -/
def effective (s : State) (c : CarrierId) : Nat :=
  match (s.carrier c).reported with
  | none => (s.carrier c).nominal
  | some r => min (s.carrier c).nominal r

/-- The units of the grant a handle matches. -/
def unitsAt (s : State) (h : Handle) : Nat :=
  match s.grantAt h with
  | some g => g.units
  | none => 0

/-- The earmark a case record sets aside on a carrier. -/
def earmarkOn (c : CarrierId) : Option Case → Nat
  | some k => if k.target = c then k.earmark else 0
  | none => 0

/-- R5: the sum of the earmarks of all COLLECTING cases that target the carrier. -/
def earmarked (s : State) (c : CarrierId) : Nat := (s.recallUnit.cases.toList.map (earmarkOn c)).sum

/-- R5: the units of the grants on the occupancy list, plus earmarked. -/
def occupied (s : State) (c : CarrierId) : Nat :=
  ((s.carrier c).occupancy.map s.unitsAt).sum + s.earmarked c

/-- The units of a RECALLED grant that has no case (R5). -/
def pendingUnitsAt (s : State) (h : Handle) : Nat :=
  match s.grantAt h with
  | some g => match g.phase with
    | .recalled _ _ none => g.units
    | .recalled _ _ (some _) | .held _ | .active | .revoked _ => 0
  | none => 0

/-- R5: the units of the RECALLED grants on the list that no case is waiting for. -/
def recallPending (s : State) (c : CarrierId) : Nat := ((s.carrier c).occupancy.map s.pendingUnitsAt).sum

/-- R6: the units a carrier can still give to a request of a level; below 0 it is taken as 0. -/
def room (s : State) (c : CarrierId) (l : Level) : Nat :=
  match l with
  | .e => s.effective c - s.occupied c
  | .p1 | .p2 | .p3 => s.effective c - s.occupied c - (s.carrier c).guard

/-- R6: OPEN and not OVER. -/
def eligible (s : State) (c : CarrierId) : Bool :=
  decide ((s.carrier c).state = .opened) && !(s.carrier c).isOver

/-- R17: the units of the master's grants of levels P1, P2 and P3. -/
def nonEUnits (s : State) (m : MasterId) : Nat :=
  (s.table.entries.toList.map (Entry.unitsFor m fun l => decide (l ≠ .e))).sum

/-- R17: the units of the master's grants of level E. -/
def eUnits (s : State) (m : MasterId) : Nat :=
  (s.table.entries.toList.map (Entry.unitsFor m fun l => decide (l = .e))).sum

/-- R20: the master's non-E units exceed its guaranteed value. -/
def aboveGuarantee (s : State) (m : MasterId) : Bool := decide ((s.master m).guaranteed < s.nonEUnits m)

/-- R16, LEAST_LOADED: of carriers in list order, the one with the greatest room, the earlier of two with the same. -/
def roomiest (s : State) (l : Level) : List CarrierId → Option CarrierId
  | [] => none
  | c :: rest =>
    match roomiest s l rest with
    | none => some c
    | some d => if s.room c l < s.room d l then some d else some c

/-- R16: the carrier choice over a group for a level and a number of units. -/
def chooseCarrier (s : State) (g : GroupId) (l : Level) (u : Nat) : Option CarrierId :=
  let fitting := (s.group g).members.filter fun c => s.eligible c && decide (u ≤ s.room c l)
  match (s.group g).mode with
  | none => none
  | some .firstFit => fitting.head?
  | some .leastLoaded => s.roomiest l fitting

/-- R45: whether a grant of the level may be created now. -/
def tableHasRoom (s : State) (l : Level) : Bool :=
  match l with
  | .e => decide (1 ≤ s.table.freeQueue.length)
  | .p1 | .p2 | .p3 => decide (Config.freeEntriesForPriority ≤ s.table.freeQueue.length)

/-! ### Counts of the waiting store and of pending requests -/

/-- R70: the entries in use of levels P1 and P2 together. -/
def priorityCount (s : State) : Nat :=
  (s.waiting.p1Lists.toList.map List.length).sum + (s.waiting.p2Lists.toList.map List.length).sum

/-- R70: the entries in use. -/
def storeCount (s : State) : Nat := s.waiting.eList.length + s.priorityCount

/-- R71: the waiting store has space for a request of the level; no P3 request is ever in the store. -/
def storeHasSpace (s : State) (l : Level) : Bool :=
  match l with
  | .e => decide (s.storeCount < Config.storeSize)
  | .p1 | .p2 =>
    decide (s.storeCount < Config.storeSize) && decide (s.priorityCount < Config.priorityStoreSize)
  | .p3 => false

/-- Every waiting entry of a master: those on the E list, its P1 list, its P2 list. -/
def waitingOf (s : State) (m : MasterId) : List WaitEntry :=
  (s.waiting.eList.filter fun w => w.req.owner = m) ++ look s.waiting.p1Lists m ++ look s.waiting.p2Lists m

/-- The requesters of the COLLECTING cases of a master, by case number. -/
def requestersOf (s : State) (m : MasterId) : List Request :=
  (s.recallUnit.cases.toList.filterMap fun x => x.map Case.req).filter fun r => r.owner = m

/-- R32: the number of the master's requests that are pending: its waiting entries and its open cases. -/
def pendingCount (s : State) (m : MasterId) : Nat := (s.waitingOf m).length + (s.requestersOf m).length

/-- R29 check 4: a pending request of the master has the tag. -/
def tagPending (s : State) (m : MasterId) (t : Half) : Bool :=
  (s.waitingOf m).any (fun w => w.req.tag = t) || (s.requestersOf m).any fun r => r.tag = t

/-! ### The outbound queue -/

/-- The frame joins the tail of the port's outbound queue. -/
def enqueue (s : State) (m : MasterId) (f : OutFrame) : State :=
  s.modPort m fun p => { p with queue := p.queue ++ [f] }

/-- A frame is offered to a port's outbound queue: taken or discarded by the link state, the class and the fill at the
moment of the offer (R152); an overrun leaves overrun pending (R153). -/
def offer (s : State) (m : MasterId) (f : OutFrame) : State :=
  let p := s.port m
  if p.overrun then s
  else
    match p.link with
    | .down | .suspended => s
    | .orphaned =>
      if f.isAdvisory then
        if p.noticeMode = .full ∧ p.queue.length < Config.advisoryLimit then s.enqueue m f else s
      else if p.queue.length < Config.queueSize then s.enqueue m f else s
    | .up | .stale =>
      if f.isAdvisory then
        if p.noticeMode = .full ∧ p.queue.length < Config.advisoryLimit then s.enqueue m f else s
      else if p.queue.length < Config.queueSize then s.enqueue m f
      else s.modPort m fun p => { p with overrun := true }

/-- An advisory notice is offered to all four ports alike (R154). -/
def offerAll (s : State) (f : OutFrame) : State := allMasters.foldl (fun s m => s.offer m f) s

/-- An ANSWER that gives none of handle, carrier, state and flags (R169). -/
def answer (s : State) (m : MasterId) (tag : Half) (o : AnswerCode) : State :=
  s.offer m (.answer tag o none none none none)

/-- An ANSWER that gives the handle alone (R169). -/
def answerHandle (s : State) (m : MasterId) (tag : Half) (o : AnswerCode) (h : Handle) : State :=
  s.offer m (.answer tag o (some h) none none none)

/-! ### Statistics and per-epoch counters -/

def countAdmitted (s : State) (m : MasterId) : State := s.modStats m fun t => { t with admitted := t.admitted + 1 }

def countRefused (s : State) (m : MasterId) : State := s.modStats m fun t => { t with refused := t.refused + 1 }

def countRecalled (s : State) (m : MasterId) : State := s.modStats m fun t => { t with recalled := t.recalled + 1 }

def countRevoked (s : State) (m : MasterId) : State := s.modStats m fun t => { t with revoked := t.revoked + 1 }

/-- A request ends with a refusal: an ANSWER under its tag and one more refused (R30, R46, R163). -/
def refuse (s : State) (m : MasterId) (tag : Half) (o : AnswerCode) : State := (s.answer m tag o).countRefused m

def reportArrival (s : State) (l : Level) : State :=
  s.modCounters fun c => { c with arrivals := c.arrivals.bump l }

def reportNoCapacity (s : State) (l : Level) : State :=
  s.modCounters fun c => { c with noCapacity := c.noCapacity.bump l }

def reportCaseOpened (s : State) : State := s.modCounters fun c => { c with casesOpened := countUp c.casesOpened }

/-- One E entry queued is reported; entries of other levels are not (R73, R74). -/
def reportQueued (s : State) (l : Level) : State :=
  match l with
  | .e => s.modCounters fun c => { c with eQueued := countUp c.eQueued }
  | .p1 | .p2 | .p3 => s

/-! ### The due list (R63) -/

/-- The carrier becomes due, unless it stands on the list already. -/
def addDue (s : State) (c : CarrierId) : State :=
  s.modEngine fun e => if c ∈ e.due then e else { e with due := e.due ++ [c] }

/-- Units return to the pool on a carrier: an offer on it falls due, for a number above 0 (R14). -/
def returnUnits (s : State) (c : CarrierId) (u : Nat) : State := if u = 0 then s else s.addDue c

end State

end Sys2Proof.Machine
end

