-- ==== Sys2Proof/Machine/Flags.lean ====
section
/-! DEFINITION. Fault flags (R155), the QUOTA_EXCESS condition (R19), the OVER condition's end (R8), and what every claim
on the pool ends with (R12). -/

namespace Sys2Proof.Machine.State

/-- An event sets a fault flag; when it was not set, a FAULT carrying every flag now set is offered (R155). -/
def setFault (s : State) (m : MasterId) (f : FaultFlag) : State :=
  if (s.port m).flags.has f then s
  else (s.modPort m fun p => { p with flags := p.flags.insert f }).offer m (.fault ((s.port m).flags.insert f))

/-- The QUOTA_EXCESS condition of a master is evaluated: it is true while non-E units exceed the ceiling; when it becomes
true the flag is set and FAULT is sent (R19). -/
def evalQuotaOf (s : State) (m : MasterId) : State :=
  let holds := decide ((s.master m).ceiling < s.nonEUnits m)
  if holds = (s.master m).quotaExcess then s
  else
    let t := s.modMaster m fun r => { r with quotaExcess := holds }
    if holds then t.setFault m .quotaExcess else t

/-- R19 for every master: a claim, an offer, a hand-off or a table retry has ended (log 6). -/
def evalQuota (s : State) : State := allMasters.foldl evalQuotaOf s

/-- An OVER episode ends: the flag becomes false, the marks are removed, an offer on the carrier falls due (R8). -/
def endEpisode (s : State) (c : CarrierId) : State :=
  (s.modCarrier c fun k => { k with isOver := false, marks := [] }).addDue c

/-- R8 at the end of a claim: the episode of an OVER carrier ends when occupied is at or below effective. -/
def evalOverOf (s : State) (c : CarrierId) : State :=
  if (s.carrier c).isOver && decide (s.occupied c ≤ s.effective c) then s.endEpisode c else s

/-- A carrier that is still OVER when the claim ends is not due (R14, R63). -/
def dropOverDue (s : State) : State :=
  s.modEngine fun e => { e with due := e.due.filter fun c => !(s.carrier c).isOver }

/-- What a claim on the pool ends with: OVER and QUOTA_EXCESS are brought up to date (R12). -/
def closeClaim (s : State) : State := (allCarriers.foldl evalOverOf s).dropOverDue.evalQuota

end Sys2Proof.Machine.State
end

