-- ==== Sys2Proof/Machine/Grants.lean ====
section
/-! DEFINITION. The common operations on grants and cases: creating (R47), freeing (R58), revoking (R57) a grant; tombstones
(R60); recalling for a case (R93); detaching (R105); settling and closing (R101, R102) a case; a request's return to the
head of its list (R74). -/

namespace Sys2Proof.Machine

/-- Where the units of a grant go when it leaves its carrier (R13): back to the pool, into a case's earmark, or nowhere
(out of occupied with no offer: a hold broken by shedding, or for a request admitted at once). -/
inductive UnitsTo where
  | pool
  | earmark (k : CaseId)
  | nowhere
  deriving DecidableEq, Repr

/-- A RECALLED grant attached to a case gives its units to the case, any other to the pool (R13). -/
def GrantPhase.unitsTo : GrantPhase → UnitsTo
  | .recalled _ _ (some k) => .earmark k
  | .recalled _ _ none => .pool
  | .held _ => .pool
  | .active => .pool
  | .revoked _ => .pool

/-- The case a grant is attached to. -/
def GrantPhase.attached : GrantPhase → Option CaseId
  | .recalled _ _ k => k
  | .held _ => none
  | .active => none
  | .revoked _ => none

namespace State

/-- The grant leaves its carrier's occupancy list, and any move-advised mark on it is removed (R4, R9). -/
def unlist (s : State) (c : CarrierId) (h : Handle) : State :=
  s.modCarrier c fun k => { k with occupancy := k.occupancy.erase h, marks := k.marks.erase h }

/-- Units join a case's earmark (R95). -/
def addEarmark (s : State) (k : CaseId) (u : Nat) : State := s.modCase k fun x => { x with earmark := x.earmark + u }

/-- The units of a grant that has left the occupancy list go where R13 sends them. -/
def giveUnits (s : State) (c : CarrierId) (u : Nat) : UnitsTo → State
  | .pool => s.returnUnits c u
  | .earmark k => s.addEarmark k u
  | .nowhere => s

/-- A case's record of a victim takes a new state (R86). -/
def markVictim (s : State) (k : CaseId) (h : Handle) (v : VictimState) : State :=
  s.modCase k fun x => { x with victims := x.victims.map fun w => if w.handle = h then { w with state := v } else w }

/-- The record of the case the grant is attached to, if any, takes the victim's new state. -/
def markAttached (s : State) (h : Handle) (v : VictimState) : Option CaseId → State
  | some k => s.markVictim k h v
  | none => s

/-- The entry becomes FREE, its generation steps, and it joins the tail of the free queue (R58 steps 3 and 4). When the
E list holds an entry, a table retry is due (R68). -/
def recycle (s : State) (i : GrantIndex) : State :=
  let t := (s.setEntry i ⟨(look s.table.entries i).gen + 1, none⟩).setFreeQueue (s.table.freeQueue ++ [i])
  if t.waiting.eList.isEmpty then t else t.modEngine fun e => { e with retryDue := true }

/-- An entry is freed (R58). -/
def freeGrant (s : State) (h : Handle) : State :=
  match s.grantAt h with
  | none => s
  | some g =>
    match g.phase with
    | .revoked _ => (s.modTombstones g.owner fun l => l.erase h).recycle h.index
    | .held _ | .active | .recalled .. =>
      (((s.unlist g.carrier h).giveUnits g.carrier g.units g.phase.unitsTo).markAttached h .released
        g.phase.attached).recycle h.index

/-- A revoked grant joins the tail of its owner's tombstone list; a seventeenth frees the oldest first (R60). -/
def addTombstone (s : State) (m : MasterId) (h : Handle) : State :=
  let t :=
    match look s.table.tombstones m with
    | [] => s
    | oldest :: rest =>
      if rest.length + 1 < Config.tombstoneLimit then s
      else (s.modTombstones m fun _ => rest).freeGrant oldest
  t.modTombstones m fun l => l ++ [h]

/-- A grant is revoked for a cause, its units going where R13 sends them for that cause (R57). -/
def revoke (s : State) (h : Handle) (cause : RevokeCause) (dest : UnitsTo) : State :=
  match s.grantAt h with
  | none => s
  | some g =>
    let t := s.setGrant h { g with units := 0, phase := .revoked cause }
    let t := ((t.unlist g.carrier h).giveUnits g.carrier g.units dest).markAttached h .revoked g.phase.attached
    ((t.addTombstone g.owner h).offer g.owner (.revokedNotice h cause)).countRevoked g.owner

/-- The state a grant starts in, with its hold deadline: HELD for mode HOLD, ACTIVE for DIRECT; the copied hold limit is
halved, rounded down, for levels P1 to P3 while the overload level is CRITICAL (R47 steps 2 and 3). -/
def startPhase (s : State) (r : Request) : GrantPhase :=
  match r.mode with
  | .direct => .active
  | .hold => .held (s.now + if r.level ≠ .e ∧ s.epoch.level = .critical then r.holdLimit / 2 else r.holdLimit)

/-- Every grant is created by this operation, in the entry at the head of the free queue (R47). The callers have found
an entry; with none there is nothing to create. -/
def createGrant (s : State) (r : Request) (c : CarrierId) : State :=
  match s.table.freeQueue with
  | [] => s
  | i :: rest =>
    let g : Grant :=
      { owner := r.owner, tag := r.tag, code := r.code, level := r.level, carrier := c, units := r.units,
        phase := s.startPhase r }
    let h : Handle := ⟨(look s.table.entries i).gen, i⟩
    let t := (s.setGrant h g).setFreeQueue rest
    let t := (t.modCarrier c fun k => { k with occupancy := k.occupancy ++ [h] })
    (t.offer r.owner (.answer r.tag .admitted (some h) (some c) (some g.phase.shown) none)).countAdmitted r.owner

/-- An ACTIVE grant is recalled: RECALLED with the cause, the attachment and the deadline its owner's release deadline
gives, and RECALL is sent (R93, R117). -/
def recallGrant (s : State) (h : Handle) (cause : RecallCause) (k : Option CaseId) : State :=
  match s.grantAt h with
  | none => s
  | some g =>
    let rd := (s.master g.owner).releaseDeadline
    let t := s.setGrant h { g with phase := .recalled cause (s.now + rd) k }
    (t.offer g.owner (.recallNotice h cause rd)).countRecalled g.owner

/-- An ACTIVE grant is recalled for a case, and a victim record with state NOTIFIED joins the case's list (R92, R93). -/
def recallFor (s : State) (k : CaseId) (h : Handle) : State :=
  (s.recallGrant h .preempt (some k)).modCase k fun x =>
    { x with victims := x.victims ++ [⟨h, s.unitsAt h, .notified⟩] }

/-- A victim that is still NOTIFIED loses its case and stays RECALLED with its deadline running (R105). -/
def detachVictim (k : CaseId) (s : State) (v : Victim) : State :=
  match v.state with
  | .released => s
  | .revoked => s
  | .notified =>
    match s.grantAt v.handle with
    | none => s
    | some g =>
      match g.phase with
      | .recalled cause d (some j) => if j = k then s.setGrant v.handle { g with phase := .recalled cause d none } else s
      | .recalled _ _ none | .held _ | .active | .revoked _ => s

def detachAll (s : State) (k : CaseId) (x : Case) : State := x.victims.foldl (detachVictim k) s

/-- The record becomes FREE, its fields cleared; its earmark leaves the target's earmarked value with it. -/
def freeCase (s : State) (k : CaseId) : State := (s.setCase k none).setAge (s.recallUnit.age.filter (· ≠ k))

/-- A list of waiting entries: the E list, or the owner's P1 or P2 list (R72). P3 has none. -/
def modList (s : State) (l : Level) (m : MasterId) (f : List WaitEntry → List WaitEntry) : State :=
  s.modWaiting fun w =>
    match l with
    | .e => { w with eList := f w.eList }
    | .p1 => { w with p1Lists := put w.p1Lists m (f (look w.p1Lists m)) }
    | .p2 => { w with p2Lists := put w.p2Lists m (f (look w.p2Lists m)) }
    | .p3 => w

/-- The waiting entry of a request that joins a list now (R70, R73). -/
def waitEntry (s : State) (r : Request) : WaitEntry := { req := r, deadline := s.now + r.waitLimit }

/-- QUEUED with place WAITING is offered, and an E entry queued is reported (R73 steps 5 and 6). -/
def announceWaiting (s : State) (r : Request) : State :=
  (s.offer r.owner (.queued r.tag .waiting)).reportQueued r.level

/-- A request becomes a waiting entry at the tail of its list (R73). -/
def joinTail (s : State) (r : Request) : State :=
  (s.modList r.level r.owner fun l => l ++ [s.waitEntry r]).announceWaiting r

/-- A request returns to the head of its list, when R71 finds space (R74 steps 1 and 2). One with wait limit 0 gets the
present millisecond as its deadline (log 26). -/
def joinHead (s : State) (r : Request) : State :=
  (s.modList r.level r.owner fun l => s.waitEntry r :: l).announceWaiting r

/-- A case settles (R101): the requester's grant is created, the victims still NOTIFIED are detached, the surplus returns
to the pool, the record becomes FREE. -/
def settle (s : State) (k : CaseId) (x : Case) : State :=
  (((s.createGrant x.req x.target).detachAll k x).freeCase k).returnUnits x.target (x.earmark - x.req.units)

/-- A case closes without a grant, since the free queue holds no entry for its level (R102). -/
def closeWithoutGrant (s : State) (k : CaseId) (x : Case) : State :=
  let t := ((s.detachAll k x).freeCase k).returnUnits x.target x.earmark
  if t.storeHasSpace x.req.level then t.joinHead x.req else t.refuse x.req.owner x.req.tag .tableFull

/-- A case whose earmark reaches its need settles or closes within the claim that raised the earmark (R95, R101, R102). -/
def trySettle (s : State) (k : CaseId) : State :=
  match s.caseAt k with
  | none => s
  | some x =>
    if x.earmark < x.req.units then s
    else if s.tableHasRoom x.req.level then s.settle k x
    else s.closeWithoutGrant k x

/-- The case that a grant's units have joined, if any, settles when it can. -/
def trySettleAttached (s : State) : Option CaseId → State
  | some k => s.trySettle k
  | none => s

/-- A case is abandoned: victims detached, the earmark back to the pool, the record FREE (R104). -/
def abandon (s : State) (k : CaseId) : State :=
  match s.caseAt k with
  | none => s
  | some x => ((s.detachAll k x).freeCase k).returnUnits x.target x.earmark

end State

end Sys2Proof.Machine
end

