-- ==== Sys2Proof/Machine/Preempt.lean ====
section
/-! DEFINITION. The case attempt: target choice and victim order (R88 to R90), direct admission (R91), the opening of a case
(R92), retargeting (R112). -/

namespace Sys2Proof.Machine

/-- What a case attempt has chosen on a target: the room counted, the holds and the victims in the order taken, and
whether room and holds alone reach the need (R90, R91). -/
structure Plan where
  target : CarrierId
  room : Nat
  holds : List Handle
  victims : List Handle
  direct : Bool
  deriving DecidableEq, Repr

/-- A grant that holds a place on an occupancy list, with its handle. -/
abbrev Listed := Handle × Grant

def GrantPhase.isHeld : GrantPhase → Bool
  | .held _ => true
  | .active | .recalled .. | .revoked _ => false

def GrantPhase.isActive : GrantPhase → Bool
  | .active => true
  | .held _ | .recalled .. | .revoked _ => false

/-- Lowest level first, and within a level in the order given: P3, then P2, then P1 (R90, R116). Grants of level E are
in none of the three. -/
def lowestFirst (l : List Listed) : List Listed :=
  (l.filter fun g => g.2.level = .p3) ++ (l.filter fun g => g.2.level = .p2) ++ l.filter fun g => g.2.level = .p1

/-- Grants are taken one at a time until the units reach the need (R90). -/
def takeUntil (need have_ : Nat) : List Listed → List Listed
  | [] => []
  | g :: rest => if need ≤ have_ then [] else g :: takeUntil need (have_ + g.2.units) rest

def unitsOf (l : List Listed) : Nat := (l.map fun g => g.2.units).sum

namespace State

/-- The grants of a carrier's occupancy list, youngest first, that is from the tail. -/
def youngestFirst (s : State) (c : CarrierId) : List Listed :=
  (s.carrier c).occupancy.reverse.filterMap fun h => (s.grantAt h).map fun g => (h, g)

/-- Holds of strictly lower level than `l`, in the order they are broken (R89, R90). -/
def breakableHolds (s : State) (c : CarrierId) (l : Level) : List Listed :=
  lowestFirst ((s.youngestFirst c).filter fun g => g.2.phase.isHeld && g.2.level.lowerThan l)

/-- Within a level, grants of masters above their guarantee come first (R20, R90, R117); the list given is youngest
first. -/
def aboveFirst (s : State) (l : List Listed) : List Listed :=
  (l.filter fun g => s.aboveGuarantee g.2.owner) ++ l.filter fun g => !s.aboveGuarantee g.2.owner

/-- ACTIVE grants of strictly lower level than `l`, in the order they are recalled (R89, R90). -/
def recallableGrants (s : State) (c : CarrierId) (l : Level) : List Listed :=
  lowestFirst (s.aboveFirst ((s.youngestFirst c).filter fun g => g.2.phase.isActive && g.2.level.lowerThan l))

/-- What an attempt takes on one member: room whole, then holds, then at most four recallable grants, stopping as soon
as the need is reached; none when the carrier may not be a target or the total falls short (R89, R90). -/
def planOn (s : State) (r : Request) (c : CarrierId) : Option Plan :=
  if s.eligible c then
    let room := s.room c r.level
    let holds := takeUntil r.units room (s.breakableHolds c r.level)
    let covered := room + unitsOf holds
    let victims := takeUntil r.units covered ((s.recallableGrants c r.level).take Config.victimLimit)
    if r.units ≤ covered + unitsOf victims then
      some { target := c, room := room, holds := holds.map Prod.fst, victims := victims.map Prod.fst,
             direct := decide (r.units ≤ covered) }
    else none
  else none

/-- The first member, in list order, that succeeds (R90). -/
def findPlan (s : State) (r : Request) : Option Plan := (s.group r.group).members.findSome? (s.planOn r)

/-- The lowest-numbered FREE case record (R87). -/
def freeRecord (s : State) : Option CaseId := allCases.find? fun k => (s.caseAt k).isNone

/-- Room and broken holds cover the need: the holds are broken and the request is admitted at once; the rest stands as
room on the target, on which an offer falls due (R91, log 16). -/
def admitDirectly (s : State) (r : Request) (p : Plan) : State :=
  ((p.holds.foldl (fun s h => s.revoke h .holdBroken .nowhere) s).createGrant r p.target).addDue p.target

/-- The case record is filled, room moves into the earmark, the chosen holds are broken into it and the chosen victims
are recalled for it (R92 steps 1 to 4). -/
def gather (s : State) (k : CaseId) (r : Request) (openedAt : Time) (p : Plan) : State :=
  let t := s.setCase k (some { req := r, target := p.target, earmark := p.room, victims := [], openedAt := openedAt })
  let t := p.holds.foldl (fun s h => s.revoke h .holdBroken (.earmark k)) t
  p.victims.foldl (fun s h => s.recallFor k h) t

/-- A new case opens: it is the youngest, QUEUED with place CASE is offered, one case opened is reported (R92). -/
def openCase (s : State) (k : CaseId) (r : Request) (p : Plan) : State :=
  (((s.setAge (s.recallUnit.age ++ [k])).gather k r s.now p).offer r.owner (.queued r.tag .inCase)).reportCaseOpened

/-- A case attempt for a request whose level has a grant entry (R88, R94): it admits at once, opens a case, or fails and
leaves no trace. -/
def caseAttempt (s : State) (r : Request) : Option State :=
  match s.freeRecord with
  | none => none
  | some k =>
    match s.findPlan r with
    | none => none
    | some p => some (if p.direct then s.admitDirectly r p else s.openCase k r p)

/-- A request whose retarget ended with no target returns to the head of its list, or is refused NO_CAPACITY for want of
store room (R113). -/
def returnRequest (s : State) (r : Request) : State :=
  if s.storeHasSpace r.level then s.joinHead r
  else (s.refuse r.owner r.tag .noCapacity).reportNoCapacity r.level

/-- A rolled-back case tries once for a new target; its record keeps its number, its opened-at value and its age (R112). -/
def retarget (s : State) (k : CaseId) (x : Case) : State :=
  match if s.tableHasRoom x.req.level then s.findPlan x.req else none with
  | none => (s.freeCase k).returnRequest x.req
  | some p => if p.direct then (s.freeCase k).admitDirectly x.req p else s.gather k x.req x.openedAt p

end State

end Sys2Proof.Machine
end

