-- ==== Sys2Proof/Machine/Offers.lean ====
section
/-! DEFINITION. The offer of freed units (R64 to R67), the table retry (R68), and the continuation every claim on the pool
is followed by (R62, R63). -/

namespace Sys2Proof.Machine.State

/-- A waiting entry fits a carrier: the carrier is a member of the entry's group as the group stands, it has the room,
and the free queue holds an entry for the level (R64). -/
def fits (s : State) (c : CarrierId) (r : Request) : Bool :=
  decide (c ∈ (s.group r.group).members) && decide (r.units ≤ s.room c r.level) && s.tableHasRoom r.level

/-- Stage 1 for one case: it takes the lesser of its shortfall and the room for its level, and settles when it reaches
its need (R64, R100). The carrier's occupied value rises by the units taken, as R5, R13 and R86 give it; R100's sentence
that it does not change is not followed (log 27). -/
def topUp (c : CarrierId) (s : State) (k : CaseId) : State :=
  match s.caseAt k with
  | none => s
  | some x =>
    if x.target = c then
      (s.addEarmark k (min (x.req.units - x.earmark) (s.room c x.req.level))).trySettle k
    else s

/-- The COLLECTING cases that target a carrier, oldest first (R87). -/
def casesTargeting (s : State) (c : CarrierId) : List CaseId :=
  s.recallUnit.age.filter fun k =>
    match s.caseAt k with
    | some x => decide (x.target = c)
    | none => false

/-- Cases in their order, each topped up only when every one before it has been filled or settled, whatever the levels:
the first that stays COLLECTING, short of its need, ends the stage (R100, R106). -/
def topUpInTurn (c : CarrierId) : List CaseId → State → State
  | [], s => s
  | k :: rest, s =>
    let t := topUp c s k
    if (t.caseAt k).isNone then topUpInTurn c rest t else t

/-- Stage 1: the cases on the carrier, oldest first (R64, R100). -/
def stage1 (s : State) (c : CarrierId) : State := topUpInTurn c (s.casesTargeting c) s

/-- The head leaves the E list (R77). -/
def popE (s : State) : State := s.modWaiting fun w => { w with eList := w.eList.tail }

/-- Stage 2: the E list strictly in arrival order (R65); the table retry makes no case attempts (R68). `fuel` bounds the
entries looked at: each one looked at leaves the list or ends the stage. -/
def stage2 (c : CarrierId) (attempts : Bool) : Nat → State → State
  | 0, s => s
  | fuel + 1, s =>
    match s.waiting.eList with
    | [] => s
    | w :: _ =>
      if s.fits c w.req then stage2 c attempts fuel (s.popE.createGrant w.req c)
      else if attempts && !s.table.freeQueue.isEmpty then
        match s.caseAttempt w.req with
        | none => s
        | some t => stage2 c attempts fuel t.popE
      else s

/-- The head of a master's list for a level of the rotation (R66). -/
def headOf (s : State) (l : Level) (m : MasterId) : Option WaitEntry :=
  match l with
  | .p1 => (look s.waiting.p1Lists m).head?
  | .p2 => (look s.waiting.p2Lists m).head?
  | .e | .p3 => none

/-- The rotation pointer of the level is set (R66, R76). -/
def setPointer (s : State) (l : Level) (m : MasterId) : State :=
  s.modEngine fun e =>
    match l with
    | .p1 => { e with p1Pointer := m }
    | .p2 => { e with p2Pointer := m }
    | .e | .p3 => e

def pointer (s : State) (l : Level) : MasterId :=
  match l with
  | .p1 => s.engine.p1Pointer
  | .p2 | .e | .p3 => s.engine.p2Pointer

/-- The head of a master's list leaves it (R77). -/
def popOf (s : State) (l : Level) (m : MasterId) : State := s.modList l m List.tail

/-- Stages 3 and 4: the heads of the four masters' lists in turn (R66). `m` is the master looked at and `passed` the
masters passed over in a row; four end the stage. `fuel` bounds the looks: no more than four for each entry. -/
def rotate (c : CarrierId) (l : Level) : Nat → MasterId → Nat → State → State
  | 0, _, _, s => s
  | fuel + 1, m, passed, s =>
    if 4 ≤ passed then s
    else
      match s.headOf l m with
      | none => rotate c l fuel (m + 1) (passed + 1) s
      | some w =>
        if s.fits c w.req then
          rotate c l fuel (m + 1) 0 (((s.popOf l m).createGrant w.req c).setPointer l (m + 1))
        else if decide (l = .p1) && w.req.preempt && s.tableHasRoom .p1 then
          match s.caseAttempt w.req with
          | none => rotate c l fuel (m + 1) (passed + 1) s
          | some t => rotate c l fuel (m + 1) 0 ((t.popOf l m).setPointer l (m + 1))
        else rotate c l fuel (m + 1) (passed + 1) s

/-- A stage of the rotation begins at the master its pointer names. -/
def rotation (s : State) (c : CarrierId) (l : Level) : State :=
  rotate c l (4 * s.storeCount + 5) (s.pointer l) 0 s

/-- Stages 2 to 4 run only on a carrier that is OPEN and not OVER (R64). -/
def lists (s : State) (c : CarrierId) : State :=
  if s.eligible c then
    let t := stage2 c true (s.waiting.eList.length + 1) s
    (t.rotation c .p1).rotation c .p2
  else s

/-- An offer on a carrier (R64), which its own returned units do not make due again (R63); on a carrier that has become
OVER it is skipped. -/
def runOffer (s : State) (c : CarrierId) : State :=
  if (s.carrier c).isOver then s
  else
    ((((s.stage1 c).lists c).modEngine fun e => { e with due := e.due.filter (· ≠ c) })).evalQuota

/-- The carriers on the due list are offered one after another, from its head (R63). -/
def drain : Nat → State → State
  | 0, s => s
  | fuel + 1, s =>
    match s.engine.due with
    | [] => s
    | c :: rest => drain fuel ((s.modEngine fun e => { e with due := rest }).runOffer c)

/-- A table retry: stage 2 alone, without case attempts, once for each OPEN carrier that is not OVER, in carrier number
order; it ends early when the E list or the free queue is empty (R68). -/
def tableRetry (s : State) : State :=
  (allCarriers.foldl
    (fun s c =>
      if s.eligible c && !s.waiting.eList.isEmpty && !s.table.freeQueue.isEmpty then
        stage2 c false (s.waiting.eList.length + 1) s
      else s)
    (s.modEngine fun e => { e with retryDue := false })).evalQuota

/-- The open cases. -/
def caseCount (s : State) : Nat := (s.recallUnit.cases.toList.filter Option.isSome).length

/-- A bound on the offers of one continuation: the due list, and for each waiting entry and each open case two more, and
one for each entry of the Grant Table. An offer is made due only by what uses one of these up (log 22;
`drain_of_bound` in Laws/Continuation.lean). -/
def offerBound (s : State) : Nat := s.engine.due.length + 2 * (s.storeCount + s.caseCount) + 1024

/-- The continuation of a claim: the due offers, then the table retry if one is due (R62, R63). -/
def continuation (s : State) : State :=
  let t := drain (s.offerBound + 1) s
  if t.engine.retryDue then t.tableRetry else t

/-- A claim on the pool has been served: its conditions are brought up to date and its continuation follows (R12, R62). -/
def finish (s : State) : State := s.closeClaim.continuation

end Sys2Proof.Machine.State
end

