-- ==== Sys2Proof/Machine/Shedding.lean ====
section
/-! DEFINITION. The hand-off of an OVER carrier to the Recall Unit: rollback, deficit, shedding, advice, close (R110 to R118,
R123), and the capacity report that begins it (R7, R10). -/

namespace Sys2Proof.Machine.State

/-- One case on the carrier is rolled back: its earmark leaves the carrier with no offer, its victims are detached, its
victim list is cleared, and it tries for a new target (R111); the shed record counts it (R123). -/
def rollback (c : CarrierId) (s : State) (k : CaseId) : State :=
  match s.caseAt k with
  | none => s
  | some x =>
    let emptied := { x with earmark := 0, victims := [] }
    let t := (s.detachAll k x).setCase k (some emptied)
    (t.modShed c fun r => { r with casesRolledBack := r.casesRolledBack + 1 }).retarget k emptied

/-- R115: occupied minus effective minus recall-pending, taken as 0 when at or below 0. -/
def deficit (s : State) (c : CarrierId) : Nat := s.occupied c - s.effective c - s.recallPending c

/-- Shedding breaks holds of levels P1 to P3, in the order given, while the deficit is above 0 (R116); it answers the
deficit left. -/
def shedHolds (c : CarrierId) : List Listed → Nat → State → Nat × State
  | [], d, s => (d, s)
  | g :: rest, d, s =>
    if d = 0 then (d, s)
    else
      shedHolds c rest (d - g.2.units)
        ((s.revoke g.1 .holdBroken .nowhere).modShed c fun r => { r with holdsBroken := r.holdsBroken + 1 })

/-- Shedding recalls ACTIVE grants of levels P1 to P3, in the order given, while the deficit is above 0 (R117). -/
def shedActive (c : CarrierId) : List Listed → Nat → State → Nat × State
  | [], d, s => (d, s)
  | g :: rest, d, s =>
    if d = 0 then (d, s)
    else
      shedActive c rest (d - g.2.units)
        ((s.recallGrant g.1 .shed none).modShed c fun r => { r with grantsRecalled := r.grantsRecalled + 1 })

/-- The holds of levels P1 to P3 on the carrier, in the order of R116. -/
def sheddableHolds (s : State) (c : CarrierId) : List Listed :=
  lowestFirst ((s.youngestFirst c).filter fun g => g.2.phase.isHeld)

/-- The ACTIVE grants of levels P1 to P3 on the carrier, in the order of R117. -/
def sheddableActive (s : State) (c : CarrierId) : List Listed :=
  lowestFirst (s.aboveFirst ((s.youngestFirst c).filter fun g => g.2.phase.isActive))

/-- A level E grant on the carrier, HELD or ACTIVE, that is not marked is advised to move, and marked (R118). -/
def advise (c : CarrierId) (s : State) (h : Handle) : State :=
  match s.grantAt h with
  | none => s
  | some g =>
    if g.level = .e ∧ (g.phase.isHeld || g.phase.isActive) ∧ h ∉ (s.carrier c).marks then
      ((s.offer g.owner (.moveAdvised h)).modCarrier c fun k => { k with marks := k.marks ++ [h] }).modShed c fun r =>
        { r with grantsAdvised := r.grantsAdvised + 1 }
    else s

/-- Emergency over-commit: every level E grant on the occupancy list, from the head (R118). -/
def adviseAll (s : State) (c : CarrierId) : State := (s.carrier c).occupancy.foldl (advise c) s

/-- Steps 2 to 4 of a hand-off: deficit, shedding, advice (R110, R115 to R118). -/
def shed (s : State) (c : CarrierId) : State :=
  let d := s.deficit c
  let s := s.modShed c fun r => { r with deficit := d }
  let (d, s) := shedHolds c (s.sheddableHolds c) d s
  let (d, s) := shedActive c (s.sheddableActive c) d s
  if d = 0 then s else s.adviseAll c

/-- Step 5: the pool evaluates the carrier at the end of the hand-off (R110). -/
def closeHandOff (s : State) (c : CarrierId) : State := (s.evalOverOf c).evalQuota

/-- An OVER episode begins: the flag becomes true, every count of the shed record is set to 0, every case on the carrier
is rolled back oldest first, and shedding follows (R7, R110, R123). -/
def beginEpisode (s : State) (c : CarrierId) : State :=
  let t := (s.modCarrier c fun k => { k with isOver := true }).modShed c fun r => { ShedRecord.zero with deficit := r.deficit }
  (((t.casesTargeting c).foldl (rollback c) t).shed c).closeHandOff c

/-- The carrier is handed over again at a further decrease: there is nothing to roll back (R7, R110, R120). -/
def handOffAgain (s : State) (c : CarrierId) : State := (s.shed c).closeHandOff c

/-- A capacity report for a carrier, as the engine serves it (R10). -/
def serveReport (s : State) (c : CarrierId) (v : Nat) : State :=
  let t := s.modCarrier c fun k => { k with reported := some (min v Config.maxNominal) }
  if (t.carrier c).state = .off then t
  else if t.effective c = s.effective c then t
  else if s.effective c < t.effective c then
    if (t.carrier c).isOver then t.evalOverOf c else t.addDue c
  else if (t.carrier c).isOver then t.handOffAgain c
  else if t.effective c < t.occupied c then t.beginEpisode c
  else t

end Sys2Proof.Machine.State
end

