-- ==== Sys2Proof/Machine/Links.lean ====
section
/-! DEFINITION. The master link: the flush (R82), the fate of a master's grants (R59), suspension (R151), frame faults
(R144), how a frame is taken by the link's state and its receive buffer (R143, R145), opening (R146, R147). -/

namespace Sys2Proof

/-- A fault among what waits in a receive buffer (log 33). -/
def Instr.isFrameFault : Instr → Bool
  | .frameFault _ => true
  | _ => false

namespace Machine

/-- What a link event does to one of the master's grants (R59). -/
inductive GrantFate where
  | kept
  | freed
  | revokedOrphan
  deriving DecidableEq, Repr

/-- R59, column Suspension. -/
def fateAtSuspension (g : Grant) : GrantFate :=
  match g.phase with
  | .held _ => .freed
  | .active | .recalled .. | .revoked _ => .kept

/-- R59, column LINK_OPEN, KEEP. -/
def fateAtKeep (g : Grant) : GrantFate :=
  match g.phase with
  | .held _ | .revoked _ => .freed
  | .active | .recalled .. => .kept

/-- R59, column LINK_OPEN, FORGET. -/
def fateAtForget (_ : Grant) : GrantFate := .freed

/-- R59, column Orphan stage 1: a RECALLED grant is never of level E. -/
def fateAtStage1 (g : Grant) : GrantFate :=
  match g.phase with
  | .held _ | .recalled .. => .revokedOrphan
  | .active => if g.level = .e then .kept else .revokedOrphan
  | .revoked _ => .kept

/-- R59, column Orphan stage 2; R150: every level E grant, HELD or ACTIVE. -/
def fateAtStage2 (g : Grant) : GrantFate :=
  match g.phase with
  | .held _ | .active => if g.level = .e then .revokedOrphan else .kept
  | .recalled .. | .revoked _ => .kept

def fateAtOpen : KeepChoice → Grant → GrantFate
  | .keep => fateAtKeep
  | .forget => fateAtForget

namespace State

/-- The orphan timer is stopped, the link is UP, its silence timer starts now (R143, R148). -/
def wake (s : State) (m : MasterId) : State :=
  s.modPort m fun p => { p with link := .up, orphan := none, silence := some (s.now + (s.master m).silencePeriod) }

/-- Every waiting entry of the master leaves its list (R82). -/
def flushWaiting (s : State) (m : MasterId) : State :=
  s.modWaiting fun w =>
    { eList := w.eList.filter fun x => x.req.owner ≠ m, p1Lists := put w.p1Lists m [], p2Lists := put w.p2Lists m [] }

/-- The COLLECTING cases whose requester is the master, oldest first. -/
def casesOf (s : State) (m : MasterId) : List CaseId :=
  s.recallUnit.age.filter fun k =>
    match s.caseAt k with
    | some x => decide (x.req.owner = m)
    | none => false

/-- The master's pending work ends without an answer: waiting entries flushed, cases abandoned (R82, R104). -/
def dropPending (s : State) (m : MasterId) : State :=
  let t := s.flushWaiting m
  (t.casesOf m).foldl abandon t

/-- The handle of the grant in an entry. -/
def handleOf (s : State) (i : GrantIndex) : Handle := ⟨(look s.table.entries i).gen, i⟩

/-- One grant of the master meets its fate; units that join a case's earmark may settle it at that point (R59, R99). -/
def meetFate (m : MasterId) (fate : Grant → GrantFate) (s : State) (i : GrantIndex) : State :=
  match (look s.table.entries i).grant with
  | none => s
  | some g =>
    if g.owner = m then
      match fate g with
      | .kept => s
      | .freed => (s.freeGrant (s.handleOf i)).trySettleAttached g.phase.attached
      | .revokedOrphan => (s.revoke (s.handleOf i) .orphan g.phase.unitsTo).trySettleAttached g.phase.attached
    else s

/-- The entries that hold a grant of the master, in index order. -/
def entriesOf (s : State) (m : MasterId) : List GrantIndex :=
  GrantTable.allIndexes.filter fun i =>
    match (look s.table.entries i).grant with
    | some g => decide (g.owner = m)
    | none => false

/-- The engine serves a link event's change to the master's grants, in index order (R59). -/
def linkClaim (s : State) (m : MasterId) (fate : Grant → GrantFate) : State :=
  (s.entriesOf m).foldl (meetFate m fate) s

/-- A master link is suspended (R151 steps 1 to 5), and the continuation of that claim follows. -/
def suspend (s : State) (m : MasterId) (reason : SuspendReason) : State :=
  let t := s.modPort m fun p =>
    { p with link := .suspended, suspendReason := some reason, silence := none, orphan := none, rxBuffer := [],
             queue := [], overrun := false }
  ((t.dropPending m).linkClaim m fateAtSuspension).finish

/-- A fault of a frame is counted in UP and STALE: the count rises, FRAME_FAULT is set, and the eighth fault of an epoch
suspends the link; in the other states nothing is counted (R144). -/
def countFrameFault (s : State) (m : MasterId) : State :=
  match (s.port m).link with
  | .down | .orphaned | .suspended => s
  | .up | .stale =>
    let t := (s.modPort m fun p => { p with frameFaults := p.frameFaults + 1 }).setFault m .frameFault
    if Config.frameFaultLimit ≤ (t.port m).frameFaults then t.suspend m .frameFaults else t

/-- The frame joins the tail of the port's receive buffer. -/
def joinBuffer (s : State) (m : MasterId) (c : Instr) : State :=
  s.modPort m fun p => { p with rxBuffer := p.rxBuffer ++ [c] }

/-- The frames that wait in port m's receive buffer; a fault among them is none (R145, log 33). -/
def framesWaiting (s : State) (m : MasterId) : Nat :=
  ((s.port m).rxBuffer.filter fun c => !c.isFrameFault).length

/-- A faulty frame, or one that found the receive buffer full, arrives (R144, R145): events of one link are served in
arrival order (R155), so it is counted at once when nothing that arrived earlier on the link waits, and else in its turn
(log 33). -/
def noteFault (s : State) (m : MasterId) : State :=
  if (s.port m).rxBuffer.isEmpty then s.countFrameFault m
  else
    match (s.port m).link with
    | .down | .orphaned | .suspended => s
    | .up | .stale => s.joinBuffer m (.frameFault m)

/-- The faults that wait on port m are counted, in their order: they arrived before the LINK_OPEN that is about to be served
(R155, log 33). -/
def serveFaults (s : State) (m : MasterId) : State :=
  ((s.port m).rxBuffer.filter Instr.isFrameFault).foldl (fun t _ => t.countFrameFault m) s

/-- A valid frame other than LINK_OPEN arrives while an earlier frame of its link is being served or waits (R143, R145):
in UP and STALE its arrival restarts the silence timer and it joins the receive buffer, but with 16 frames waiting it is
discarded and counted as a frame fault; in the other states it is discarded. -/
def hold (s : State) (m : MasterId) (c : Instr) : State :=
  match (s.port m).link with
  | .down | .orphaned | .suspended => s
  | .up | .stale =>
    if Config.receiveSize ≤ s.framesWaiting m then s.noteFault m else (s.wake m).joinBuffer m c

/-- A valid frame `c` other than LINK_OPEN arrives (R143, R145): in UP and STALE it is served, after the silence timer has
started (and a STALE link has returned to UP), unless earlier frames of the link wait, behind which it waits; in the
other states it is discarded. -/
def onFrame (s : State) (m : MasterId) (c : Instr) (serve : State → State) : State :=
  match (s.port m).link with
  | .down | .orphaned | .suspended => s
  | .up | .stale => if (s.port m).rxBuffer.isEmpty then serve (s.wake m) else s.hold m c

/-- The cause a LINK_OPEN stores, by the state it finds (R146 step 1). -/
def openingCause : LinkState → LinkCause
  | .down => .new
  | .up | .stale => .reopen
  | .suspended => .afterSuspend
  | .orphaned => .afterOrphan

/-- The HELLO of a link (R147): the suspend reason stands in it only when the link cause is AFTER_SUSPEND. -/
def hello (s : State) (m : MasterId) : OutFrame :=
  let p := s.port m
  .hello s.responder.resetCause p.lastCause (if p.lastCause = some .afterSuspend then p.suspendReason else none)
    s.epoch.number s.epoch.level p.flags Config.revision

/-- A LINK_OPEN is served as one claim (R146 steps 1 to 7); the offers it makes due run after it. -/
def openLink (s : State) (m : MasterId) (mode : NoticeMode) (choice : KeepChoice) : State :=
  let cause := openingCause (s.port m).link
  let t := s.modPort m fun p => { p with lastCause := some cause, rxBuffer := [], queue := [], overrun := false }
  let t := (t.dropPending m).linkClaim m (fateAtOpen choice)
  let t := (t.modPort m fun p => { p with noticeMode := mode, frameFaults := 0 }).wake m
  let t := t.offer m (t.hello m)
  let t := if cause = .afterSuspend then t.modPort m fun p => { p with suspendReason := none } else t
  t.finish

end State

end Machine

end Sys2Proof
end

