-- ==== Sys2Proof/Machine/Epochs.lean ====
section
/-! DEFINITION. The Epoch and Load Unit: the evaluation (R134, R135), the boundary (R133, R136, R138, R140), ticks (R129 to
R131) and the expiries of the epoch timers (R128, R130). -/

namespace Sys2Proof.Machine

/-- The three values of an evaluation (R134). -/
structure Evaluation where
  occupancyPercent : Nat
  waitingDepth : Nat
  ePressure : Bool
  deriving DecidableEq, Repr

/-- The threshold set of the step up from a level; CRITICAL has none (R135). -/
def Load.stepUp : Load → Option (Fin 3)
  | .normal => some 0
  | .strained => some 1
  | .congested => some 2
  | .critical => none

/-- The threshold set of the step down from a level; NORMAL has none (R135). -/
def Load.stepDown : Load → Option (Fin 3)
  | .normal => none
  | .strained => some 0
  | .congested => some 1
  | .critical => some 2

/-- The next level up; CRITICAL stays. -/
def Load.next : Load → Load
  | .normal => .strained
  | .strained => .congested
  | .congested => .critical
  | .critical => .critical

/-- The level before; NORMAL stays. -/
def Load.previous : Load → Load
  | .normal => .normal
  | .strained => .normal
  | .congested => .strained
  | .critical => .congested

/-- R135, rise, against the set of the step up from `l`. -/
def Evaluation.rises (v : Evaluation) (l : Load) (t : ThresholdSet) : Bool :=
  decide (t.riseOccupancy ≤ v.occupancyPercent) || decide (t.riseWaiting ≤ v.waitingDepth) ||
    (v.ePressure && (decide (l = .normal) || decide (l = .strained)))

/-- R135, a calm boundary, against the set of the step down. -/
def Evaluation.calm (v : Evaluation) (t : ThresholdSet) : Bool :=
  decide (v.occupancyPercent < t.fallOccupancy) && decide (v.waitingDepth < t.fallWaiting) && !v.ePressure

/-- The level and the fall-persistence count after the fall test of R135. -/
def EpochUnit.afterFallTest (e : EpochUnit) (v : Evaluation) : Load × Nat :=
  match e.level.stepDown with
  | none => (e.level, 0)
  | some i =>
    if v.calm (look e.thresholds i) then
      if e.fallPersistence ≤ e.fallCount + 1 then (e.level.previous, 0) else (e.level, e.fallCount + 1)
    else (e.level, 0)

/-- The level and the fall-persistence count after a boundary: the rise test first, then the fall test (R135). -/
def EpochUnit.evaluated (e : EpochUnit) (v : Evaluation) : Load × Nat :=
  match e.level.stepUp with
  | some i => if v.rises e.level (look e.thresholds i) then (e.level.next, 0) else e.afterFallTest v
  | none => e.afterFallTest v

namespace State

/-- The carriers whose state is not OFF. -/
def carriersInUse (s : State) : List CarrierId := allCarriers.filter fun c => (s.carrier c).state ≠ .off

/-- R134: 100 x the sum of occupied by the sum of effective, over carriers not OFF; 100 when the latter is 0. -/
def occupancyPercent (s : State) : Nat :=
  let e := (s.carriersInUse.map s.effective).sum
  if e = 0 then 100 else 100 * (s.carriersInUse.map s.occupied).sum / e

/-- R134. -/
def ePressure (s : State) : Bool :=
  let c := s.epoch.counters
  decide (0 < c.casesOpened) || decide (0 < c.eQueued) || decide (0 < c.noCapacity.e)

def evaluate (s : State) : Evaluation :=
  { occupancyPercent := s.occupancyPercent, waitingDepth := s.priorityCount, ePressure := s.ePressure }

/-- Stage 2: the level takes its new value (R135); at a change LEVEL is offered and, on entry into CRITICAL, the thinning
counters become 0 (R36, R136). -/
def setLevel (s : State) (new : Load) (fallCount : Nat) : State :=
  let t := s.modEpoch fun e => { e with level := new, fallCount := fallCount }
  if new = s.epoch.level then t
  else
    let t := t.offerAll (.level s.epoch.level new)
    if new = .critical then
      { t with intake := { t.intake with thinning := Vector.replicate 4 (Vector.replicate 64 0) } }
    else t

/-- Occupied and effective of C0 to C11 (R138). -/
def occupancyValues (s : State) : List (Nat × Nat) := allCarriers.map fun c => (s.occupied c, s.effective c)

/-- The oldest queued OCCUPANCY is removed (R157). -/
def dropOldestOccupancy : List RadioFrame → List RadioFrame
  | [] => []
  | f :: rest => if f.isOccupancy then rest else f :: dropOldestOccupancy rest

/-- An OCCUPANCY frame is handed to the Radio Link Port (R157). -/
def offerOccupancy (s : State) (f : RadioFrame) : State :=
  match s.radio.link with
  | .down => s
  | .up | .stale =>
    s.modRadio fun r =>
      if r.queue.length < Config.radioQueueSize then { r with queue := r.queue ++ [f] }
      else { r with queue := dropOldestOccupancy r.queue ++ [f] }

/-- Stage 5: the record of the last evaluation is written, the per-epoch counters and the frame-fault counts become 0
(R133, R140). -/
def closeEpoch (s : State) (v : Evaluation) (levelBefore : Load) : State :=
  let t := s.modEpoch fun e =>
    { e with
      lastEval :=
        { number := e.number, time := e.timebase, occupancyPercent := v.occupancyPercent,
          waitingDepth := v.waitingDepth, ePressure := v.ePressure, levelBefore := levelBefore, levelAfter := e.level,
          fallCount := e.fallCount, counters := e.counters },
      counters := .zero }
  allMasters.foldl (fun s m => s.modPort m fun p => { p with frameFaults := 0 }) t

/-- A boundary, whole, in its five stages; the caller has set the timers of stage 1 (R133). -/
def boundary (s : State) : State :=
  let v := s.evaluate
  let values := s.occupancyValues
  let next := s.epoch.evaluated v
  let t := s.modEpoch fun e => { e with number := e.number + 1 }
  let t := t.setLevel next.1 next.2
  let t := t.offerAll (.epoch t.epoch.number t.epoch.level .none)
  let t := t.offerOccupancy (.occupancy t.epoch.number values)
  t.closeEpoch v s.epoch.level

/-- The interval timer starts now (R127). -/
def startInterval (s : State) : State :=
  s.modEpoch fun e => { e with intervalTimer := some (e.timebase + e.epochInterval) }

/-- The loss timer starts now, with three times the epoch interval (R127). -/
def startLoss (s : State) : State :=
  s.modEpoch fun e => { e with lossTimer := some (e.timebase + 3 * e.epochInterval) }

/-- The interval timer expires in SOURCE or FOLLOW_LOST: it starts again, and the boundary is served (R128). -/
def expireInterval (s : State) : State :=
  match s.epoch.state, s.epoch.intervalTimer with
  | .source, some d | .followLost, some d => if d ≤ s.now then s.startInterval.boundary else s
  | _, _ => s

/-- The loss timer expires in FOLLOW: FOLLOW_LOST, the interval timer starts, the loss timer stops, a boundary (R130). -/
def expireLoss (s : State) : State :=
  match s.epoch.state, s.epoch.lossTimer with
  | .follow, some d =>
    if d ≤ s.now then ((s.modEpoch fun e => { e with state := .followLost, lossTimer := none }).startInterval).boundary
    else s
  | _, _ => s

/-- A tick whose number is no successor: the number is taken, the slip counted and announced, the loss timer starts again
(R129). -/
def slip (s : State) (n : Fin 64) : State :=
  (s.modEpoch fun e =>
    { e with number := n, slips := countUp e.slips,
             lossTimer := some (e.timebase + 3 * e.epochInterval) }).offerAll (.epoch n s.epoch.level .slip)

/-- The first tick in FOLLOW_LOST (R131). -/
def resync (s : State) (n : Fin 64) : State :=
  (s.modEpoch fun e =>
    { e with number := n, state := .follow, intervalTimer := none,
             lossTimer := some (e.timebase + 3 * e.epochInterval) }).offerAll (.epoch n s.epoch.level .resync)

/-- A tick, by the epoch state (R129). -/
def serveTick (s : State) (n : Fin 64) : State :=
  match s.epoch.state with
  | .source => s
  | .follow => if n = s.epoch.number + 1 then s.startLoss.boundary else s.slip n
  | .followLost => s.resync n

end State

/-- INTERVAL_TIMER_EXPIRY (R128). -/
def execIntervalTimerExpiry (s : State) : Host.Outcome State Fault Refusal := .next s.expireInterval

/-- LOSS_TIMER_EXPIRY (R130). -/
def execLossTimerExpiry (s : State) : Host.Outcome State Fault Refusal := .next s.expireLoss

end Sys2Proof.Machine
end

