-- ==== Sys2Proof/Machine/Radio.lean ====
section
/-! DEFINITION. The Radio Link Port and its frames (R156, R157, R10). -/

namespace Sys2Proof.Machine

namespace State

/-- The radio link is UP and its silence timer starts now (R156). -/
def wakeRadio (s : State) : State :=
  s.modRadio fun r => { r with link := .up, silence := some (s.now + r.silencePeriod) }

/-- Sixteen frames wait in the radio link's receive buffer. -/
def radioFull (s : State) : Bool := decide (Config.receiveSize ≤ s.radio.rxBuffer.length)

/-- The frame joins the tail of the radio link's receive buffer. -/
def joinRadioBuffer (s : State) (c : Instr) : State := s.modRadio fun r => { r with rxBuffer := r.rxBuffer ++ [c] }

/-- A report or a tick arrives while an earlier radio frame is being served or waits (R156): in UP and STALE its arrival
starts the silence timer and it joins the receive buffer, but with 16 frames waiting it is discarded and not counted; in
DOWN it is discarded. -/
def holdRadio (s : State) (c : Instr) : State :=
  match s.radio.link with
  | .down => s
  | .up | .stale => if s.radioFull then s else s.wakeRadio.joinRadioBuffer c

/-- A report or a tick `c` arrives (R156): discarded in DOWN; in UP and STALE served after the timer has started, unless
earlier frames wait, behind which it waits. -/
def onRadioFrame (s : State) (c : Instr) (serve : State → State) : State :=
  match s.radio.link with
  | .down => s
  | .up | .stale => if s.radio.rxBuffer.isEmpty then serve s.wakeRadio else s.holdRadio c

/-- A RADIO_OPEN, in every state of the link (R156). -/
def openRadio (s : State) (tag : Half) : State :=
  (s.modRadio fun r =>
    { r with queue := [.radioHello tag s.responder.resetCause s.epoch.number] }).wakeRadio

/-- A RADIO_OPEN arrives while an earlier radio frame is being served or waits: R156 lets no radio frame pass the others,
so it waits its turn, and opens the link when it is served (log 10). -/
def holdRadioOpen (s : State) (tag : Half) : State := if s.radioFull then s else s.joinRadioBuffer (.radioOpen tag)

/-- The available value of a report as the engine takes it: DOWN is 0 (R10, R172). -/
def reportedValue (available : Half) : Nat := if available.toNat = 0xFFFF then 0 else available.toNat

/-- A RADIO_OPEN finds the radio link DOWN: it is served as it arrives (R156); while RESET_N is low no frame is taken
(log 11). -/
def takeRadioOpen (s : State) (tag : Half) : State := if s.resetHeld then s else s.openRadio tag

/-- A capacity report; one for a carrier that does not exist changes no carrier (R10). -/
def report (s : State) (carrier : Byte) (available : Half) : State :=
  match numberBelow 12 carrier.toNat with
  | none => s
  | some c => (s.serveReport c (reportedValue available)).finish

/-- A tick as the Epoch and Load Unit takes it from the port (R129): the number modulo 64. -/
def tickFrame (s : State) (number : Byte) : State := s.serveTick (Fin.ofNat 64 number.toNat)

/-- The radio silence timer expires in UP (R156). -/
def expireRadioSilence (s : State) : State :=
  match s.radio.link, s.radio.silence with
  | .up, some d =>
    if d ≤ s.now then (s.modRadio fun r => { r with link := .stale, silence := none }).offerAll .radioStale else s
  | _, _ => s

end State

/-- RADIO_OPEN (R156); behind frames that wait it waits; while RESET_N is low no frame is taken (log 11). -/
def execRadioOpen (tag : Half) (s : State) : Host.Outcome State Fault Refusal :=
  .next
    (if s.resetHeld then s
    else
      match s.radio.link with
      | .down => s.openRadio tag
      | .up | .stale => if s.radio.rxBuffer.isEmpty then s.openRadio tag else s.holdRadioOpen tag)

/-- CARRIER_REPORT (R10). -/
def execCarrierReport (carrier : Byte) (available : Half) (s : State) : Host.Outcome State Fault Refusal :=
  .next (s.onRadioFrame (.carrierReport carrier available) fun s => s.report carrier available)

/-- EPOCH_TICK (R129). -/
def execEpochTick (number : Byte) (s : State) : Host.Outcome State Fault Refusal :=
  .next (s.onRadioFrame (.epochTick number) fun s => s.tickFrame number)

/-- RADIO_FRAME_FAULT: discarded, not counted, no flag, no timer (R156). -/
def execRadioFrameFault (s : State) : Host.Outcome State Fault Refusal := .next s

/-- RADIO_RECEIVE_BUFFER_OVERFLOW: the frame is discarded and not counted (R156, log 10). -/
def execRadioReceiveBufferOverflow (s : State) : Host.Outcome State Fault Refusal := .next s

/-- RADIO_SILENCE_EXPIRY (R156). -/
def execRadioSilenceExpiry (s : State) : Host.Outcome State Fault Refusal := .next s.expireRadioSilence

/-- RADIO_OUTBOUND_SEND: the head leaves the queue as its sending begins (R157, log 12). -/
def execRadioOutboundSend (s : State) : Host.Outcome State Fault Refusal :=
  .next (s.modRadio fun r => { r with queue := r.queue.tail })

end Sys2Proof.Machine
end

