-- ==== Sys2Proof/Machine/Clock.lean ====
section
/-! DEFINITION. What the part does with no command waiting (log 2): it serves the first of its own events that is due, in
the order of `dueEvent`; with none due and no frame waiting, a millisecond passes (R126). -/

namespace Sys2Proof.Machine

/-- The timebase one millisecond later; what follows 2^48 - 1 is a free value (R126, log 4). -/
def nextTime (t : Time) : Time :=
  if t + 1 < Config.timebaseRange then t + 1 else (Config.timebasePastRange t).toNat

/-- The expiry that is due on the entry numbered `i` (R51, R97). -/
def Entry.dueCommand (now : Time) (i : Nat) (e : Entry) : Option Instr :=
  match e.grant with
  | none => none
  | some g =>
    match g.phase with
    | .held d => if d ≤ now then some (.holdExpiry (Handle.toBits ⟨e.gen, Fin.ofNat 1024 i⟩)) else none
    | .recalled _ d _ =>
      if d ≤ now then some (.recallDeadlineExpiry (Handle.toBits ⟨e.gen, Fin.ofNat 1024 i⟩)) else none
    | .active | .revoked _ => none

/-- The first expiry due on the entries from index `i` on. -/
def dueOnEntries (now : Time) : Nat → List Entry → Option Instr
  | _, [] => none
  | i, e :: rest =>
    match e.dueCommand now i with
    | some c => some c
    | none => dueOnEntries now (i + 1) rest

/-- The first wait expiry due on a list (R78). -/
def dueOnList (now : Time) (l : List WaitEntry) : Option Instr :=
  (l.find? fun w => decide (w.deadline ≤ now)).map fun w => .waitExpiry w.req.owner w.req.tag

/-- The timer that is due on a master link (R148 to R150). -/
def Port.dueCommand (now : Time) (m : MasterId) (p : Port) : Option Instr :=
  match p.link with
  | .up => if p.silence.any fun d => decide (d ≤ now) then some (.silenceExpiry m) else none
  | .stale =>
    if p.orphan.any fun x => decide (x.1 ≤ now) && decide (x.2 = .one) then some (.orphanStage1 m) else none
  | .orphaned =>
    if p.orphan.any fun x => decide (x.1 ≤ now) && decide (x.2 = .two) then some (.orphanStage2 m) else none
  | .down | .suspended => none

/-- The timer that is due on the radio link (R156). -/
def RadioPort.dueCommand (now : Time) (r : RadioPort) : Option Instr :=
  match r.link with
  | .up => if r.silence.any fun d => decide (d ≤ now) then some .radioSilenceExpiry else none
  | .down | .stale => none

/-- The epoch timer that is due (R128, R130). -/
def EpochUnit.dueCommand (e : EpochUnit) : Option Instr :=
  match e.state with
  | .source | .followLost =>
    if e.intervalTimer.any fun d => decide (d ≤ e.timebase) then some .intervalTimerExpiry else none
  | .follow => if e.lossTimer.any fun d => decide (d ≤ e.timebase) then some .lossTimerExpiry else none

namespace State

/-- Suspensions after overruns, then hold and recall expiries by entry, wait expiries of the E list and of the P1 and P2
lists by master, the timers of the master links, the radio link's, the epoch's. The spec leaves the order open (R62). -/
def dueEvent (s : State) : Option Instr :=
  ((((((allMasters.find? fun m => (s.port m).overrun).map Instr.suspension).or
    (dueOnEntries s.now 0 s.table.entries.toList)).or
    (dueOnList s.now s.waiting.eList)).or
    (allMasters.findSome? fun m => dueOnList s.now (look s.waiting.p1Lists m))).or
    ((allMasters.findSome? fun m => dueOnList s.now (look s.waiting.p2Lists m)).or
    ((allMasters.findSome? fun m => (s.port m).dueCommand s.now m).or
    ((s.radio.dueCommand s.now).or s.epoch.dueCommand))))

/-- A millisecond passes; while RESET_N is low nothing counts (R126). -/
def tick (s : State) : State :=
  if s.resetHeld then s else s.modEpoch fun e => { e with timebase := nextTime e.timebase }

end State

end Sys2Proof.Machine
end

