-- ==== Sys2Proof/Machine/Admission.lean ====
section
/-! DEFINITION. ADMIT (R29 to R38, R46), CANCEL (R39), COMMIT and RELEASE (R52 to R54), and the expiries of holds, waits and
recalls (R51, R78, R97). -/

namespace Sys2Proof.Machine

namespace State

/-- The class map entry a service code names, when the code is mapped (R29 check 1). -/
def classOf (s : State) (code : Byte) : Option (Fin 64 × ServiceClass) :=
  match numberBelow 64 code.toNat with
  | none => none
  | some c => if (look s.intake.classes c).valid then some (c, look s.intake.classes c) else none

/-- The thinning counter of a master and a service code (R35). -/
def thinningOf (s : State) (m : MasterId) (c : Fin 64) : Nat := look (look s.intake.thinning m) c

/-- The counter steps: (old value + 1) modulo the thin ratio (R35, R37). -/
def stepThinning (s : State) (m : MasterId) (c : Fin 64) : State :=
  { s with intake := { s.intake with
      thinning := put s.intake.thinning m (put (look s.intake.thinning m) c
        ((s.thinningOf m c + 1) % s.intake.thinRatio)) } }

/-- Steps 6 and 7 of the admission decision: the request waits, or is refused NO_CAPACITY or STORE_FULL (R46, R49). -/
def waitOrRefuse (s : State) (r : Request) : State :=
  if r.waitLimit = 0 then (s.refuse r.owner r.tag .noCapacity).reportNoCapacity r.level
  else if s.storeHasSpace r.level then s.joinTail r
  else s.refuse r.owner r.tag .storeFull

/-- Steps 3 to 7: carrier choice, creation, case attempt, wait, refusal (R46, R48). -/
def placeRequest (s : State) (r : Request) : State :=
  match s.chooseCarrier r.group r.level r.units with
  | some c => s.createGrant r c
  | none =>
    match if r.preempt then s.caseAttempt r else none with
    | some t => t
    | none => s.waitOrRefuse r

/-- The ceiling test of R18: it fails when the request would take the master's non-E units above its ceiling. -/
def failsCeiling (s : State) (r : Request) : Bool :=
  decide (r.level ≠ .e) && decide ((s.master r.owner).ceiling < s.nonEUnits r.owner + r.units)

/-- The engine's admission decision (R46). -/
def decideAdmission (s : State) (r : Request) : State :=
  if s.failsCeiling r then s.refuse r.owner r.tag .quotaCeiling
  else if s.tableHasRoom r.level then s.placeRequest r
  else if r.level = .e then s.waitOrRefuse r
  else s.refuse r.owner r.tag .tableFull

/-- A request that passes intake is handed to the engine with the values copied from its class (R38), and the engine
serves the claim. -/
def handOn (s : State) (m : MasterId) (tag : Half) (code : Fin 64) (k : ServiceClass) (units : Nat) (mode : AdmitMode) :
    State :=
  (s.decideAdmission
    { owner := m, tag := tag, code := code, level := k.level, group := k.group, units := units, mode := mode,
      holdLimit := k.holdLimit, waitLimit := k.waitLimit, preempt := k.preempt }).finish

/-- Checks 4 to 8 of the intake (R29, R34, R35). -/
def intakePending (s : State) (m : MasterId) (tag : Half) (code : Fin 64) (k : ServiceClass) (units : Nat)
    (mode : AdmitMode) : State :=
  if s.tagPending m tag then s.refuse m tag .duplicateTag
  else if (s.master m).pendingLimit ≤ s.pendingCount m then s.refuse m tag .pendingLimit
  else if k.gate.closedAt s.epoch.level then s.refuse m tag .gated
  else if s.epoch.level = .critical ∧ k.thin then
    if s.thinningOf m code = 0 then (s.stepThinning m code).handOn m tag code k units mode
    else (s.stepThinning m code).refuse m tag .thinned
  else s.handOn m tag code k units mode

/-- The intake checks in order (R29); every ADMIT that passes check 1 is reported as an arrival of its level (R30). -/
def serveAdmit (s : State) (m : MasterId) (tag : Half) (code units mode : Byte) : State :=
  match s.classOf code with
  | none => s.refuse m tag .unmapped
  | some (c, k) =>
    let t := s.reportArrival k.level
    if units.toNat = 0 ∨ k.maxUnits < units.toNat then t.refuse m tag .excessUnits
    else
      match AdmitMode.ofCode mode with
      | none => t.refuse m tag .outOfRange
      | some md => t.intakePending m tag c k units.toNat md

/-- COMMIT and RELEASE are checked against the handle and the owner first (R52). -/
def withOwnGrant (s : State) (m : MasterId) (tag : Half) (h : Handle) (serve : Grant → State) : State :=
  match s.grantAt h with
  | none => s.answerHandle m tag .noSuchGrant h
  | some g =>
    if g.owner = m then serve g else (s.answerHandle m tag .notOwner h).setFault m .keyFault

/-- The owner's frame finds a tombstone: it is freed and the answer is TOO_LATE (R53, R54). -/
def tooLate (s : State) (m : MasterId) (tag : Half) (h : Handle) : State :=
  ((s.freeGrant h).answerHandle m tag .tooLate h).finish

/-- WRONG_STATE gives the handle and the state (R53, R169). -/
def answerWrongState (s : State) (m : MasterId) (tag : Half) (h : Handle) (g : Grant) : State :=
  s.offer m (.answer tag .wrongState (some h) none (some g.phase.shown) none)

/-- A COMMIT from the owner, by the state of the grant (R53). -/
def serveCommit (s : State) (m : MasterId) (tag : Half) (h : Handle) (g : Grant) : State :=
  match g.phase with
  | .held _ =>
    (s.setGrant h { g with phase := .active }).offer m
      (.answer tag .committed (some h) (some g.carrier) (some .active) none)
  | .active | .recalled .. => s.answerWrongState m tag h g
  | .revoked _ => s.tooLate m tag h

/-- A RELEASE from the owner, by the state of the grant (R54, R96). -/
def serveRelease (s : State) (m : MasterId) (tag : Half) (h : Handle) (g : Grant) : State :=
  match g.phase with
  | .held _ | .active | .recalled .. =>
    (((s.freeGrant h).answerHandle m tag .released h).trySettleAttached g.phase.attached).finish
  | .revoked _ => s.tooLate m tag h

/-- A COMMIT as the engine takes it from the port (R52, R53). -/
def commitFrame (s : State) (m : MasterId) (tag handle : Half) : State :=
  s.withOwnGrant m tag (.ofBits handle) fun g => s.serveCommit m tag (.ofBits handle) g

/-- A RELEASE as the engine takes it from the port (R52, R54). -/
def releaseFrame (s : State) (m : MasterId) (tag handle : Half) : State :=
  s.withOwnGrant m tag (.ofBits handle) fun g => s.serveRelease m tag (.ofBits handle) g

/-- The master's waiting entry under a tag. -/
def findWaiting (s : State) (m : MasterId) (tag : Half) : Option WaitEntry :=
  (s.waitingOf m).find? fun w => w.req.tag = tag

/-- The master's waiting entry under a tag leaves its list, wherever it stands (R78, R81). -/
def removeWaiting (s : State) (m : MasterId) (tag : Half) : State :=
  s.modWaiting fun w =>
    { eList := w.eList.filter fun x => !(decide (x.req.owner = m) && decide (x.req.tag = tag)),
      p1Lists := put w.p1Lists m ((look w.p1Lists m).filter fun x => x.req.tag ≠ tag),
      p2Lists := put w.p2Lists m ((look w.p2Lists m).filter fun x => x.req.tag ≠ tag) }

/-- The case whose requester is the master's request under a tag. -/
def findCase (s : State) (m : MasterId) (tag : Half) : Option CaseId :=
  allCases.find? fun k =>
    match s.caseAt k with
    | some x => decide (x.req.owner = m) && decide (x.req.tag = tag)
    | none => false

/-- CANCELLED under the target tag, then DONE under the CANCEL's own; one more refused (R39). -/
def answerCancelled (s : State) (m : MasterId) (tag target : Half) : State :=
  (s.refuse m target .cancelled).answer m tag .done

/-- A CANCEL searches the sender's pending requests for its target tag (R39). -/
def serveCancel (s : State) (m : MasterId) (tag target : Half) : State :=
  match s.findWaiting m target with
  | some _ => (s.removeWaiting m target).answerCancelled m tag target
  | none =>
    match s.findCase m target with
    | some k => ((s.abandon k).answerCancelled m tag target).finish
    | none => s.answer m tag .noSuchRequest

/-- The hold deadline of a grant that is still HELD has been reached (R51). -/
def expireHold (s : State) (h : Handle) : State :=
  match s.grantAt h with
  | none => s
  | some g =>
    match g.phase with
    | .held d => if d ≤ s.now then (s.revoke h .holdExpired .pool).finish else s
    | .active | .recalled .. | .revoked _ => s

/-- The recall deadline of a grant that is still RECALLED has been reached: its units join its case's earmark, or return
to the pool (R97). -/
def expireRecall (s : State) (h : Handle) : State :=
  match s.grantAt h with
  | none => s
  | some g =>
    match g.phase with
    | .recalled _ d k =>
      if d ≤ s.now then ((s.revoke h .deadline g.phase.unitsTo).trySettleAttached k).finish else s
    | .held _ | .active | .revoked _ => s

/-- The wait deadline of an entry that is still in its list has been reached (R78). -/
def expireWait (s : State) (m : MasterId) (tag : Half) : State :=
  match s.findWaiting m tag with
  | none => s
  | some w => if w.deadline ≤ s.now then (s.removeWaiting m tag).refuse m tag .waitExpired else s

end State

/-- ADMIT (R29): the intake checks, then the admission decision. -/
def execAdmitRequest (m : MasterId) (tag : Half) (code units mode : Byte) (s : State) :
    Host.Outcome State Fault Refusal :=
  .next (s.onFrame m (.admitRequest m tag code units mode) fun s => s.serveAdmit m tag code units mode)

/-- COMMIT (R53). -/
def execCommit (m : MasterId) (tag handle : Half) (s : State) : Host.Outcome State Fault Refusal :=
  .next (s.onFrame m (.commit m tag handle) fun s => s.commitFrame m tag handle)

/-- RELEASE (R54). -/
def execRelease (m : MasterId) (tag handle : Half) (s : State) : Host.Outcome State Fault Refusal :=
  .next (s.onFrame m (.release m tag handle) fun s => s.releaseFrame m tag handle)

/-- CANCEL (R39). -/
def execCancel (m : MasterId) (tag target : Half) (s : State) : Host.Outcome State Fault Refusal :=
  .next (s.onFrame m (.cancel m tag target) fun s => s.serveCancel m tag target)

/-- HOLD_EXPIRY (R51). A grant that is not HELD, or whose deadline lies ahead, is left as it is (log 3). -/
def execHoldExpiry (handle : Half) (s : State) : Host.Outcome State Fault Refusal :=
  .next (s.expireHold (.ofBits handle))

/-- WAIT_EXPIRY (R78). -/
def execWaitExpiry (m : MasterId) (tag : Half) (s : State) : Host.Outcome State Fault Refusal :=
  .next (s.expireWait m tag)

/-- RECALL_DEADLINE_EXPIRY (R97). -/
def execRecallDeadlineExpiry (handle : Half) (s : State) : Host.Outcome State Fault Refusal :=
  .next (s.expireRecall (.ofBits handle))

end Sys2Proof.Machine
end

