-- ==== Sys2Proof/Machine/Configuration.lean ====
section
/-! DEFINITION. CONFIG: the right, the table and index checks, and each table's own checks (R21 to R23, R26, R139, R158 to
R160); CLEAR_STATS (R164). -/

namespace Sys2Proof.Machine

/-- The carriers a group write's member bytes name, when each is 0 to 11 (R22). -/
def carriersNamed : List Byte → Option (List CarrierId)
  | [] => some []
  | b :: rest =>
    match numberBelow 12 b.toNat, carriersNamed rest with
    | some c, some l => some (c :: l)
    | _, _ => none

/-- R26 check 2: a valid class agrees with its level. -/
def ServiceClass.agrees (k : ServiceClass) : Bool :=
  match k.level with
  | .e => decide (100 ≤ k.waitLimit) && decide (k.gate = .none) && !k.thin && k.preempt
  | .p1 => !k.thin
  | .p2 => !k.preempt
  | .p3 => decide (k.waitLimit = 0) && !k.preempt

/-- The class a write carries, when every field is in its range (R26 check 1). -/
def ServiceClass.ofFields (valid level group maxUnits : Byte) (holdLimit waitLimit : Half) (gate thin preempt : Byte) :
    Option ServiceClass :=
  match yesNo valid, Level.ofCode level, numberBelow 16 group.toNat, Gate.ofCode gate, yesNo thin, yesNo preempt with
  | some v, some l, some g, some ga, some t, some p =>
    if 1 ≤ maxUnits.toNat ∧ maxUnits.toNat ≤ 64 ∧ 100 ≤ holdLimit.toNat ∧ holdLimit.toNat ≤ 30000 ∧
        waitLimit.toNat ≤ 10000 then
      some { valid := v, level := l, group := g, maxUnits := maxUnits.toNat, holdLimit := holdLimit.toNat,
             waitLimit := waitLimit.toNat, gate := ga, thin := t, preempt := p }
    else none
  | _, _, _, _, _, _ => none

namespace State

/-- CONFIG, DEVICE_CLEAR and CLEAR_STATS are served only for a link with the configuration right (R158). -/
def withRight (s : State) (m : MasterId) (tag : Half) (serve : State) : State :=
  if (s.port m).configRight then serve else s.answer m tag .noRight

/-- A CONFIG names an entry of a table of `n`: with the right, an index outside the table is answered OUT_OF_RANGE
(R159). -/
def withEntry (s : State) (m : MasterId) (tag : Half) (n : Nat) (index : Byte) (write : Fin n → State) : State :=
  s.withRight m tag
    (match numberBelow n index.toNat with
    | none => s.answer m tag .outOfRange
    | some i => write i)

/-- A COLLECTING case targets the carrier. -/
def targeted (s : State) (c : CarrierId) : Bool :=
  s.recallUnit.cases.toList.any fun x =>
    match x with
    | some k => decide (k.target = c)
    | none => false

/-- What a carrier write leaves due: an offer on a carrier OPEN after it that was not OPEN before, or whose room for E or
non-E requests is greater than before (R21). -/
def dueAfterWrite (s old : State) (c : CarrierId) : State :=
  if (s.carrier c).state = .opened ∧
      ((old.carrier c).state ≠ .opened ∨ old.room c .e < s.room c .e ∨ old.room c .p1 < s.room c .p1) then s.addDue c
  else s

/-- A carrier write (R21). -/
def writeCarrier (s : State) (m : MasterId) (tag : Half) (c : CarrierId) (state : Byte) (nominal guard : Half) : State :=
  match CarrierState.ofCode state with
  | none => s.answer m tag .outOfRange
  | some st =>
    if Config.maxNominal < nominal.toNat ∨ Config.maxGuard < guard.toNat then s.answer m tag .outOfRange
    else if nominal.toNat < guard.toNat then s.answer m tag .configConflict
    else if nominal.toNat < s.occupied c then s.answer m tag .configConflict
    else if st = .off ∧ ((s.carrier c).occupancy ≠ [] ∨ s.targeted c) then s.answer m tag .configConflict
    else
      (((s.modCarrier c fun k => { k with state := st, nominal := nominal.toNat, guard := guard.toNat }).answer m tag
        .done).dueAfterWrite s c).finish

/-- A group write (R22). -/
def writeGroup (s : State) (m : MasterId) (tag : Half) (g : GroupId) (mode count : Byte) (members : List Byte) : State :=
  match GroupMode.ofCode mode, carriersNamed members with
  | some md, some l =>
    if count.toNat = 0 ∨ 12 < count.toNat ∨ ¬ l.Nodup then s.answer m tag .outOfRange
    else
      ({ s with pool := { s.pool with groups := put s.pool.groups g { members := l, mode := some md } } }).answer m tag .done
  | _, _ => s.answer m tag .outOfRange

/-- A class write (R26). -/
def writeClass (s : State) (m : MasterId) (tag : Half) (c : Fin 64) (k : Option ServiceClass) : State :=
  match k with
  | none => s.answer m tag .outOfRange
  | some k =>
    if k.valid && !k.agrees then s.answer m tag .configConflict
    else ({ s with intake := { s.intake with classes := put s.intake.classes c k } }).answer m tag .done

/-- The guaranteed values of the masters other than `m`, summed (R23). -/
def othersGuaranteed (s : State) (m : MasterId) : Nat :=
  ((allMasters.filter (· ≠ m)).map fun j => (s.master j).guaranteed).sum

/-- A master write (R160, R23): the new record keeps the QUOTA_EXCESS condition, which is evaluated at the end. -/
def writeMaster (s : State) (m : MasterId) (tag : Half) (j : MasterId) (new : MasterRecord) (noticeMode : Byte) : State :=
  match NoticeMode.ofCode noticeMode with
  | none => s.answer m tag .outOfRange
  | some n =>
    if new.guaranteed ≤ Config.maxShare ∧ new.ceiling ≤ Config.maxShare ∧ 1 ≤ new.pendingLimit ∧ new.pendingLimit ≤ 64 ∧
        50 ≤ new.releaseDeadline ∧ new.releaseDeadline ≤ 2000 ∧ 100 ≤ new.silencePeriod ∧ new.silencePeriod ≤ 10000 ∧
        1000 ≤ new.orphanDelay ∧ new.orphanDelay ≤ 60000 then
      if Config.maxShare < new.guaranteed + s.othersGuaranteed j then s.answer m tag .configConflict
      else
        ((((s.modMaster j fun r => { new with quotaExcess := r.quotaExcess }).modPort j fun p =>
          { p with noticeMode := n }).answer m tag .done)).finish
    else s.answer m tag .outOfRange

/-- A threshold set write (R139). -/
def writeThresholds (s : State) (m : MasterId) (tag : Half) (i : Fin 3) (t : ThresholdSet) : State :=
  if 1 ≤ t.riseOccupancy ∧ t.riseOccupancy ≤ 100 ∧ 1 ≤ t.riseWaiting ∧ t.riseWaiting ≤ 128 ∧
      t.fallOccupancy ≤ 99 ∧ t.fallWaiting ≤ 127 then
    if t.fallOccupancy < t.riseOccupancy ∧ t.fallWaiting < t.riseWaiting then
      (s.modEpoch fun e => { e with thresholds := put e.thresholds i t }).answer m tag .done
    else s.answer m tag .configConflict
  else s.answer m tag .outOfRange

/-- A single setting is written when its value is in its range (R37, R139, R156). -/
def writeSetting (s : State) (m : MasterId) (tag : Half) (low high v : Nat) (written : State) : State :=
  if low ≤ v ∧ v ≤ high then written.answer m tag .done else s.answer m tag .outOfRange

/-- The four statistics counters of a master become 0 (R164). -/
def zeroStats (s : State) (j : MasterId) : State := s.modStats j fun _ => .zero

/-- CLEAR_STATS: a master 0 to 3, or 0xFF for ALL (R164, R170). -/
def serveClearStats (s : State) (m : MasterId) (tag : Half) (target : Byte) : State :=
  s.withRight m tag
    (match numberBelow 4 target.toNat with
    | some j => (s.zeroStats j).answer m tag .done
    | none =>
      if target.toNat = 0xFF then (allMasters.foldl zeroStats s).answer m tag .done else s.answer m tag .outOfRange)

/-! The CONFIG frames as the Configuration Responder takes them from the port (R145, R158, R159). -/

def configCarrierFrame (s : State) (m : MasterId) (tag : Half) (index state : Byte) (nominal guard : Half) : State :=
  s.withEntry m tag 12 index fun c => s.writeCarrier m tag c state nominal guard

/-- Member bytes beyond those the count needs are ignored (R144, R170). -/
def configGroupFrame (s : State) (m : MasterId) (tag : Half) (index mode count : Byte) (members : List Byte) : State :=
  s.withEntry m tag 16 index fun g => s.writeGroup m tag g mode count (members.take (memberBytesNeeded count))

def configClassFrame (s : State) (m : MasterId) (tag : Half) (index valid level group maxUnits : Byte)
    (holdLimit waitLimit : Half) (gate thin preempt : Byte) : State :=
  s.withEntry m tag 64 index fun c =>
    s.writeClass m tag c (ServiceClass.ofFields valid level group maxUnits holdLimit waitLimit gate thin preempt)

def configMasterFrame (s : State) (m : MasterId) (tag : Half) (index : Byte) (guaranteed ceiling : Half)
    (pendingLimit : Byte) (releaseDeadline silencePeriod orphanDelay : Half) (noticeMode : Byte) : State :=
  s.withEntry m tag 4 index fun j =>
    s.writeMaster m tag j
      { guaranteed := guaranteed.toNat, ceiling := ceiling.toNat, pendingLimit := pendingLimit.toNat,
        releaseDeadline := releaseDeadline.toNat, silencePeriod := silencePeriod.toNat,
        orphanDelay := orphanDelay.toNat, quotaExcess := false } noticeMode

def configThresholdsFrame (s : State) (m : MasterId) (tag : Half)
    (index riseOccupancy riseWaiting fallOccupancy fallWaiting : Byte) : State :=
  s.withEntry m tag 3 index fun i =>
    s.writeThresholds m tag i
      { riseOccupancy := riseOccupancy.toNat, riseWaiting := riseWaiting.toNat, fallOccupancy := fallOccupancy.toNat,
        fallWaiting := fallWaiting.toNat }

def configFallPersistenceFrame (s : State) (m : MasterId) (tag : Half) (index value : Byte) : State :=
  s.withEntry m tag 1 index fun _ =>
    s.writeSetting m tag 1 15 value.toNat (s.modEpoch fun e => { e with fallPersistence := value.toNat })

/-- Running periods keep their deadlines (R127). -/
def configEpochIntervalFrame (s : State) (m : MasterId) (tag : Half) (index : Byte) (value : Half) : State :=
  s.withEntry m tag 1 index fun _ =>
    s.writeSetting m tag 100 5000 value.toNat (s.modEpoch fun e => { e with epochInterval := value.toNat })

def configThinRatioFrame (s : State) (m : MasterId) (tag : Half) (index value : Byte) : State :=
  s.withEntry m tag 1 index fun _ =>
    s.writeSetting m tag 2 16 value.toNat { s with intake := { s.intake with thinRatio := value.toNat } }

def configRadioSilenceFrame (s : State) (m : MasterId) (tag : Half) (index : Byte) (value : Half) : State :=
  s.withEntry m tag 1 index fun _ =>
    s.writeSetting m tag 200 5000 value.toNat (s.modRadio fun r => { r with silencePeriod := value.toNat })

/-- A table code that names no table (R159). -/
def configUnknownFrame (s : State) (m : MasterId) (tag : Half) : State := s.withRight m tag (s.answer m tag .outOfRange)

end State

/-- CONFIG_CARRIER (R21). -/
def execConfigCarrier (m : MasterId) (tag : Half) (index state : Byte) (nominal guard : Half) (s : State) :
    Host.Outcome State Fault Refusal :=
  .next (s.onFrame m (.configCarrier m tag index state nominal guard) fun s =>
    s.configCarrierFrame m tag index state nominal guard)

/-- CONFIG_GROUP (R22). A body with fewer member bytes than its count needs is a faulty frame (R144, R170). -/
def execConfigGroup (m : MasterId) (tag : Half) (index mode count : Byte) (members : List Byte) (s : State) :
    Host.Outcome State Fault Refusal :=
  .next
    (if members.length < memberBytesNeeded count then s.noteFault m
    else
      s.onFrame m (.configGroup m tag index mode count members) fun s =>
        s.configGroupFrame m tag index mode count members)

/-- CONFIG_CLASS (R26). -/
def execConfigClass (m : MasterId) (tag : Half) (index valid level group maxUnits : Byte) (holdLimit waitLimit : Half)
    (gate thin preempt : Byte) (s : State) : Host.Outcome State Fault Refusal :=
  .next (s.onFrame m (.configClass m tag index valid level group maxUnits holdLimit waitLimit gate thin preempt) fun s =>
    s.configClassFrame m tag index valid level group maxUnits holdLimit waitLimit gate thin preempt)

/-- CONFIG_MASTER (R160). -/
def execConfigMaster (m : MasterId) (tag : Half) (index : Byte) (guaranteed ceiling : Half) (pendingLimit : Byte)
    (releaseDeadline silencePeriod orphanDelay : Half) (noticeMode : Byte) (s : State) :
    Host.Outcome State Fault Refusal :=
  .next (s.onFrame m
    (.configMaster m tag index guaranteed ceiling pendingLimit releaseDeadline silencePeriod orphanDelay noticeMode)
    fun s => s.configMasterFrame m tag index guaranteed ceiling pendingLimit releaseDeadline silencePeriod orphanDelay
      noticeMode)

/-- CONFIG_THRESHOLD_SET (R139). -/
def execConfigThresholdSet (m : MasterId) (tag : Half) (index riseOccupancy riseWaiting fallOccupancy fallWaiting : Byte)
    (s : State) : Host.Outcome State Fault Refusal :=
  .next (s.onFrame m (.configThresholdSet m tag index riseOccupancy riseWaiting fallOccupancy fallWaiting) fun s =>
    s.configThresholdsFrame m tag index riseOccupancy riseWaiting fallOccupancy fallWaiting)

/-- CONFIG_FALL_PERSISTENCE (R139). -/
def execConfigFallPersistence (m : MasterId) (tag : Half) (index value : Byte) (s : State) :
    Host.Outcome State Fault Refusal :=
  .next (s.onFrame m (.configFallPersistence m tag index value) fun s =>
    s.configFallPersistenceFrame m tag index value)

/-- CONFIG_EPOCH_INTERVAL (R139). -/
def execConfigEpochInterval (m : MasterId) (tag : Half) (index : Byte) (value : Half) (s : State) :
    Host.Outcome State Fault Refusal :=
  .next (s.onFrame m (.configEpochInterval m tag index value) fun s => s.configEpochIntervalFrame m tag index value)

/-- CONFIG_THIN_RATIO (R37). -/
def execConfigThinRatio (m : MasterId) (tag : Half) (index value : Byte) (s : State) :
    Host.Outcome State Fault Refusal :=
  .next (s.onFrame m (.configThinRatio m tag index value) fun s => s.configThinRatioFrame m tag index value)

/-- CONFIG_RADIO_SILENCE_PERIOD (R156). -/
def execConfigRadioSilencePeriod (m : MasterId) (tag : Half) (index : Byte) (value : Half) (s : State) :
    Host.Outcome State Fault Refusal :=
  .next (s.onFrame m (.configRadioSilencePeriod m tag index value) fun s =>
    s.configRadioSilenceFrame m tag index value)

/-- CONFIG_UNKNOWN_TABLE (R159): OUT_OF_RANGE. A table code 1 to 9 needs entry bytes this frame has not: it is a faulty
frame (R144, R170, log 14). -/
def execConfigUnknownTable (m : MasterId) (tag : Half) (table index : Byte) (s : State) :
    Host.Outcome State Fault Refusal :=
  .next
    (if 1 ≤ table.toNat ∧ table.toNat ≤ 9 then s.noteFault m
    else s.onFrame m (.configUnknownTable m tag table index) fun s => s.configUnknownFrame m tag)

/-- CLEAR_STATS (R164). -/
def execClearStats (m : MasterId) (tag : Half) (target : Byte) (s : State) : Host.Outcome State Fault Refusal :=
  .next (s.onFrame m (.clearStats m tag target) fun s => s.serveClearStats m tag target)

end Sys2Proof.Machine
end

