-- ==== Sys2Proof/Machine/Clears.lean ====
section
/-! DEFINITION. Power-on, the reset pin (R24, R126, R127, R142) and the two depths of DEVICE_CLEAR (R165, R166). -/

namespace Sys2Proof.Machine

/-- An entry is freed by a clear: a grant goes and the generation steps; a FREE entry stays (R69, R165). -/
def Entry.cleared (e : Entry) : Entry :=
  match e.grant with
  | none => e
  | some _ => { gen := e.gen + 1, grant := none }

/-- A carrier's traffic is cleared, its settings are kept (R24, R165). -/
def Carrier.cleared (k : Carrier) : Carrier :=
  { k with reported := none, occupancy := [], marks := [], isOver := false }

/-- The ELU at a CLEAR_STATE (R141). -/
def EpochUnit.cleared (e : EpochUnit) : EpochUnit :=
  { e with slips := 0, level := .normal, fallCount := 0, counters := .zero, lastEval := .cleared }

/-- The Grant Table at a CLEAR_STATE: every entry freed, those that held a grant joining the free queue in index order
(R69, R165). -/
def GrantTable.cleared (t : GrantTable) : GrantTable :=
  { entries := t.entries.map Entry.cleared,
    freeQueue := t.freeQueue ++ GrantTable.allIndexes.filter fun i => (look t.entries i).grant.isSome,
    tombstones := Vector.replicate 4 [] }

namespace State

/-- The suspensions that await service after an overrun, those included that the service of one of them brings about:
each time the lowest-numbered master's (R153, log 15). `fuel` bounds the suspensions: a suspended link overruns no more. -/
def suspendOverrun : Nat → State → State
  | 0, s => s
  | fuel + 1, s =>
    match allMasters.find? fun m => (s.port m).overrun with
    | none => s
    | some m => suspendOverrun fuel (s.suspend m .outboundOverrun)

/-- Every suspension awaiting service is served before the clear (R165). -/
def serveSuspensions (s : State) : State := suspendOverrun 4 s

/-- Steps 1 to 4 of a CLEAR_STATE (R165). Step 2's "each link" is read as each master link: the radio link's receive buffer
is kept (log 31). Faults that wait are no frames: they stay and are counted in their turn (log 33). -/
def clearTraffic (s : State) : State :=
  { s with
    ports := s.ports.map fun p => { p with rxBuffer := p.rxBuffer.filter Instr.isFrameFault, overrun := false }
    intake := { s.intake with thinning := Vector.replicate 4 (Vector.replicate 64 0) }
    pool := { s.pool with
      carriers := s.pool.carriers.map Carrier.cleared
      masters := s.pool.masters.map fun r => { r with quotaExcess := false } }
    table := s.table.cleared
    engine := .initial
    waiting := .initial
    recallUnit := .initial
    epoch := s.epoch.cleared
    responder := { s.responder with stats := Vector.replicate 4 .zero, resetCause := .clearState } }

/-- HELLO is offered to each master link that is UP (R147, R165 step 6). -/
def helloAll (s : State) : State :=
  allMasters.foldl (fun s m => if (s.port m).link = .up then s.offer m (s.hello m) else s) s

/-- DEVICE_CLEAR with depth STATE, from a link with the right (R165). When the suspensions served first include that of the
sender's own link, whether the clear is still served is not stated: the model serves it, and the DONE, offered to a SUSPENDED
link, is discarded (log 32). -/
def serveClearState (s : State) (m : MasterId) (tag : Half) : State :=
  ((s.serveSuspensions.clearTraffic).answer m tag .done).helloAll

/-- DEVICE_CLEAR with depth FULL, from a link with the right: the straps as last sampled, no answer (R166). -/
def serveClearFull (s : State) : State :=
  { State.initial .clearFull s.responder.straps with pending := s.pending }

/-- A DEVICE_CLEAR by its depth code, after the right (R158, R166, R175). -/
def serveDeviceClear (s : State) (m : MasterId) (tag : Half) (depth : Nat) : State :=
  s.withRight m tag
    (match depth with
    | 1 => s.serveClearState m tag
    | 2 => s.serveClearFull
    | _ => s.answer m tag .outOfRange)

/-- Power is applied: every block takes its power-on values (R24, R42, R69, R85, R109, R125, R141, R142, R157, R160, R163).
-/
def powerUp (s : State) (cfgr : BitVec 4) (epm : Bool) : State :=
  { State.initial .powerOn { cfgr := cfgr, epm := epm } with pending := s.pending }

/-- RESET_N goes low: every block takes its reset values, and the reset lasts while RESET_N is low (R126, R142). -/
def resetLow (s : State) (cfgr : BitVec 4) (epm : Bool) : State :=
  { State.initial .resetPin { cfgr := cfgr, epm := epm } with resetHeld := true, pending := s.pending }

/-- RESET_N goes high: the timebase, and with it the timer of the epoch state, counts from 0 (R126, R127). -/
def resetHigh (s : State) : State := { s with resetHeld := false }

end State

/-- POWER_ON (R24). -/
def execPowerOn (cfgr : BitVec 4) (epm : Bool) (s : State) : Host.Outcome State Fault Refusal :=
  .next (s.powerUp cfgr epm)

/-- RESET_PIN (R142). -/
def execResetPin (cfgr : BitVec 4) (epm : Bool) (s : State) : Host.Outcome State Fault Refusal :=
  .next (s.resetLow cfgr epm)

/-- PIN_RESET_END (R126). -/
def execPinResetEnd (s : State) : Host.Outcome State Fault Refusal := .next s.resetHigh

/-- CLEAR_STATE (R165). -/
def execClearState (m : MasterId) (tag : Half) (s : State) : Host.Outcome State Fault Refusal :=
  .next (s.onFrame m (.clearState m tag) fun s => s.serveDeviceClear m tag 1)

/-- CLEAR_FULL (R166). -/
def execClearFull (m : MasterId) (tag : Half) (s : State) : Host.Outcome State Fault Refusal :=
  .next (s.onFrame m (.clearFull m tag) fun s => s.serveDeviceClear m tag 2)

/-- DEVICE_CLEAR_UNKNOWN_DEPTH (R166): served by the depth the frame carries (log 14). -/
def execDeviceClearUnknownDepth (m : MasterId) (tag : Half) (depth : Byte) (s : State) :
    Host.Outcome State Fault Refusal :=
  .next (s.onFrame m (.deviceClearUnknownDepth m tag depth) fun s => s.serveDeviceClear m tag depth.toNat)

end Sys2Proof.Machine
end

