-- ==== Sys2Proof/Machine/LinkEvents.lean ====
section
/-! DEFINITION. The commands of a master link itself: opening, presence, faults, silence and orphan expiries, suspension,
the transmitter, CLEAR_FAULT (08). -/

namespace Sys2Proof.Machine

namespace State

/-- The silence timer of an UP link has expired: the link becomes STALE and the orphan timer starts at stage 1 (R148). -/
def expireSilence (s : State) (m : MasterId) : State :=
  match (s.port m).link, (s.port m).silence with
  | .up, some d =>
    if d ≤ s.now then
      s.modPort m fun p =>
        { p with link := .stale, silence := none, orphan := some (s.now + (s.master m).orphanDelay, .one) }
    else s
  | _, _ => s

/-- Orphan stage 1 (R149). The outbound queue is left as it is, an ADMITTED of a settle served before it included: R149 is
followed, not the table of R103 (log 28). -/
def orphanFirst (s : State) (m : MasterId) : State :=
  let t := s.modPort m fun p => { p with link := .orphaned, rxBuffer := [] }
  let t := (t.dropPending m).linkClaim m fateAtStage1
  (t.modPort m fun p => { p with orphan := some (s.now + (s.master m).orphanDelay, .two) }).finish

/-- Orphan stage 2 (R150). -/
def orphanSecond (s : State) (m : MasterId) : State :=
  ((s.linkClaim m fateAtStage2).modPort m fun p => { p with orphan := none }).finish

/-- The orphan timer has expired at stage 1 (R149). -/
def expireOrphan1 (s : State) (m : MasterId) : State :=
  match (s.port m).link, (s.port m).orphan with
  | .stale, some (d, .one) => if d ≤ s.now then s.orphanFirst m else s
  | _, _ => s

/-- The orphan timer has expired at stage 2 (R150). -/
def expireOrphan2 (s : State) (m : MasterId) : State :=
  match (s.port m).link, (s.port m).orphan with
  | .orphaned, some (d, .two) => if d ≤ s.now then s.orphanSecond m else s
  | _, _ => s

/-- The flags a CLEAR_FAULT leaves: those not named, and QUOTA_EXCESS while the condition holds (R155). -/
def flagsLeft (s : State) (m : MasterId) (named : FaultFlags) : FaultFlags :=
  let f := (s.port m).flags
  { keyFault := f.keyFault && !named.keyFault, frameFault := f.frameFault && !named.frameFault,
    quotaExcess := f.quotaExcess && (!named.quotaExcess || (s.master m).quotaExcess) }

/-- A CLEAR_FAULT is served by the port: DONE carries the flags that remain set (R155). -/
def serveClearFault (s : State) (m : MasterId) (tag : Half) (named : FaultFlags) : State :=
  let left := s.flagsLeft m named
  (s.modPort m fun p => { p with flags := left }).offer m (.answer tag .done none none none (some left))

/-- A LINK_OPEN is taken as soon as it arrives (R145), in every state of the link: ahead of every frame that waits, but
behind the faults that arrived before it (R155, log 33). A notice mode or keep value that is
neither of its two is not served (R146); while RESET_N is low no frame is taken (log 11). -/
def takeLinkOpen (s : State) (m : MasterId) (noticeMode keep : Byte) : State :=
  if s.resetHeld then s
  else
    match NoticeMode.ofCode noticeMode, KeepChoice.ofCode keep with
    | some n, some k => (s.serveFaults m).openLink m n k
    | _, _ => s

/-- The transmitter begins to send the frame at the head of the queue, which leaves the queue; it takes one frame at a
time (R152). -/
def beginSend (s : State) (m : MasterId) : State :=
  match (s.port m).sending, (s.port m).queue with
  | none, f :: rest => s.modPort m fun p => { p with sending := some f, queue := rest }
  | _, _ => s

end State

/-- LINK_OPEN (R146). -/
def execLinkOpen (m : MasterId) (noticeMode keep : Byte) (s : State) : Host.Outcome State Fault Refusal :=
  .next (s.takeLinkOpen m noticeMode keep)

/-- PRESENCE: its only effect is the restart of the silence timer and, in STALE, the return to UP (R143). -/
def execPresence (m : MasterId) (s : State) : Host.Outcome State Fault Refusal := .next (s.onFrame m (.presence m) id)

/-- FRAME_FAULT (R144, R155). -/
def execFrameFault (m : MasterId) (s : State) : Host.Outcome State Fault Refusal := .next (s.noteFault m)

/-- RECEIVE_BUFFER_OVERFLOW: a frame has found 16 frames waiting; it is discarded, and counted by the steps of R144 (R145,
log 10). A frame that the model itself finds in excess meets the same end in `State.hold`. -/
def execReceiveBufferOverflow (m : MasterId) (s : State) : Host.Outcome State Fault Refusal :=
  .next (s.noteFault m)

/-- SILENCE_EXPIRY (R148). -/
def execSilenceExpiry (m : MasterId) (s : State) : Host.Outcome State Fault Refusal := .next (s.expireSilence m)

/-- ORPHAN_STAGE_1 (R149). -/
def execOrphanStage1 (m : MasterId) (s : State) : Host.Outcome State Fault Refusal := .next (s.expireOrphan1 m)

/-- ORPHAN_STAGE_2 (R150). -/
def execOrphanStage2 (m : MasterId) (s : State) : Host.Outcome State Fault Refusal := .next (s.expireOrphan2 m)

/-- SUSPENSION after an outbound overrun (R151, R153); with no overrun pending there is nothing to serve (log 15). -/
def execSuspension (m : MasterId) (s : State) : Host.Outcome State Fault Refusal :=
  .next (if (s.port m).overrun then s.suspend m .outboundOverrun else s)

/-- OUTBOUND_SEND (R152). -/
def execOutboundSend (m : MasterId) (s : State) : Host.Outcome State Fault Refusal := .next (s.beginSend m)

/-- OUTBOUND_FRAME_SENT: the transmitter becomes free (R152). -/
def execOutboundFrameSent (m : MasterId) (s : State) : Host.Outcome State Fault Refusal :=
  .next (s.modPort m fun p => { p with sending := none })

/-- CLEAR_FAULT (R155). -/
def execClearFault (m : MasterId) (tag : Half) (flags : Byte) (s : State) : Host.Outcome State Fault Refusal :=
  .next (s.onFrame m (.clearFault m tag flags) fun s => s.serveClearFault m tag (.ofBits flags))

end Sys2Proof.Machine
end

