-- ==== Sys2Proof/Machine/Queries.lean ====
section
/-! DEFINITION. QUERY: the reply fields of each kind in the order and widths of R171, the checks of R161 and R162, and the
parts of a reply that does not fit one body (R169). -/

namespace Sys2Proof.Machine

/-- A code, flag, number or one-byte setting. -/
def byteField (n : Nat) : ReplyField := .b1 (BitVec.ofNat 8 n)

/-- A flag or condition, sent 0 false, 1 true (log 30: R175 gives the codes 0 no, 1 yes for valid, thin and preempt alone). -/
def flagField (b : Bool) : ReplyField := .b1 (yesNoCode b)

/-- A CU value, count, length or duration; a value above 65535 is held there. -/
def halfField (n : Nat) : ReplyField := .b2 (BitVec.ofNat 16 (min n 65535))

/-- A timebase value or deadline. -/
def timeField (t : Time) : ReplyField := .b6 (BitVec.ofNat 48 t)

/-- A one-byte value that may be absent: 0xFF. -/
def byteOrAbsent : Option Nat → ReplyField
  | some n => byteField n
  | none => .b1 0xFF

/-- A two-byte value that may be absent or withheld: 0xFFFF. -/
def halfOrAbsent : Option Nat → ReplyField
  | some n => halfField n
  | none => .b2 0xFFFF

/-- A deadline that may be absent: all bytes 0xFF. -/
def timeOrAbsent : Option Time → ReplyField
  | some t => timeField t
  | none => .b6 (BitVec.allOnes 48)

def ReplyField.width : ReplyField → Nat
  | .b1 _ => 1
  | .b2 _ => 2
  | .b4 _ => 4
  | .b6 _ => 6

/-- Bytes of reply fields one body holds: 60 less type, tag, kind, index and part (R171). -/
def replyRoom : Nat := 53

/-- The fields of each part: as many whole fields as one body holds (R169, log 13). `left` is the room left in the part
whose fields, last first, are `part`. -/
def packFields : (left : Nat) → (part : List ReplyField) → List ReplyField → List (List ReplyField)
  | _, part, [] => [part.reverse]
  | left, part, f :: rest =>
    if f.width ≤ left then packFields (left - f.width) (f :: part) rest
    else part.reverse :: packFields (replyRoom - f.width) [f] rest

/-- The fields of the per-epoch counters, in the order of R132. -/
def Counters.fields (c : Counters) : List ReplyField :=
  [halfField c.arrivals.e, halfField c.arrivals.p1, halfField c.arrivals.p2, halfField c.arrivals.p3,
   halfField c.noCapacity.e, halfField c.noCapacity.p1, halfField c.noCapacity.p2, halfField c.noCapacity.p3,
   halfField c.casesOpened, halfField c.eQueued]

def ThresholdSet.fields (t : ThresholdSet) : List ReplyField :=
  [byteField t.riseOccupancy, byteField t.riseWaiting, byteField t.fallOccupancy, byteField t.fallWaiting]

/-- The record of the last evaluation, in the order of R140. -/
def EvalRecord.fields (r : EvalRecord) : List ReplyField :=
  [byteField r.number.val, timeField r.time, halfField r.occupancyPercent, halfField r.waitingDepth,
   flagField r.ePressure, .b1 r.levelBefore.code, .b1 r.levelAfter.code, halfField r.fallCount] ++ r.counters.fields

def GrantPhase.holdDeadline : GrantPhase → Option Time
  | .held d => some d
  | .active | .recalled .. | .revoked _ => none

def GrantPhase.recallCause : GrantPhase → Option RecallCause
  | .recalled c _ _ => some c
  | .held _ | .active | .revoked _ => none

def GrantPhase.recallDeadline : GrantPhase → Option Time
  | .recalled _ d _ => some d
  | .held _ | .active | .revoked _ => none

def GrantPhase.revokeCause : GrantPhase → Option RevokeCause
  | .revoked c => some c
  | .held _ | .active | .recalled .. => none

/-- A grant record and the entry's generation, in the order of R43 (R161, R162). -/
def Grant.fields (g : Grant) (gen : Fin 64) : List ReplyField :=
  [.b1 g.phase.shown.code, byteField g.owner.val, .b2 g.tag, byteField g.code.val, .b1 g.level.code,
   byteField g.carrier.val, halfField g.units, timeOrAbsent g.phase.holdDeadline,
   byteOrAbsent (g.phase.recallCause.map fun c => c.code.toNat), timeOrAbsent g.phase.recallDeadline,
   byteOrAbsent (g.phase.attached.map fun k => k.val), byteOrAbsent (g.phase.revokeCause.map fun c => c.code.toNat),
   byteField gen.val]

namespace State

/-- The parts of a reply are offered one after another, numbered from `i`; the last carries the marker (R169). -/
def offerParts (m : MasterId) (tag : Half) (kind : Byte) (index : Half) :
    Nat → List (List ReplyField) → State → State
  | _, [], s => s
  | i, [p], s => s.offer m (.queryReply tag kind index i true p)
  | i, p :: q :: rest, s =>
    offerParts m tag kind index (i + 1) (q :: rest) (s.offer m (.queryReply tag kind index i false p))

/-- A QUERY_REPLY under the QUERY's tag (R161). -/
def reply (s : State) (m : MasterId) (tag : Half) (kind : Byte) (index : Half) (fields : List ReplyField) : State :=
  offerParts m tag kind index 0 (packFields replyRoom [] fields) s

/-- Kind carrier: the fields of R1, the list and the marks as their lengths, then the shed record (R123). -/
def carrierFields (s : State) (c : CarrierId) : List ReplyField :=
  let k := s.carrier c
  let r := look s.recallUnit.shed c
  [.b1 k.state.code, halfField k.nominal, halfField k.guard, halfOrAbsent k.reported, halfField k.occupancy.length,
   halfField (s.earmarked c), halfField k.marks.length, flagField k.isOver, halfField (s.effective c),
   halfField (s.occupied c), halfField (s.recallPending c), halfField r.deficit, halfField r.holdsBroken,
   halfField r.grantsRecalled, halfField r.grantsAdvised, halfField r.casesRolledBack]

/-- Kind group: valid or invalid, the member list in order, the mode (R161). -/
def groupFields (s : State) (g : GroupId) : List ReplyField :=
  let x := s.group g
  [flagField !x.members.isEmpty] ++ x.members.map (fun c => byteField c.val) ++
    [byteOrAbsent (x.mode.map fun m => m.code.toNat)]

/-- Kind class: the whole entry, in the order of R25. -/
def classFields (s : State) (c : Fin 64) : List ReplyField :=
  let k := look s.intake.classes c
  [flagField k.valid, .b1 k.level.code, byteField k.group.val, halfField k.maxUnits, halfField k.holdLimit,
   halfField k.waitLimit, .b1 k.gate.code, flagField k.thin, flagField k.preempt]

/-- Kind waiting: the counts and pointers of R84. -/
def waitingFields (s : State) (m : MasterId) : List ReplyField :=
  [halfField s.storeCount, halfField s.priorityCount, halfField s.waiting.eList.length] ++
    (allMasters.flatMap fun j =>
      [halfField (look s.waiting.p1Lists j).length, halfField (look s.waiting.p2Lists j).length]) ++
    [byteField s.engine.p1Pointer.val, byteField s.engine.p2Pointer.val,
     halfField (s.waiting.eList.filter fun w => w.req.owner = m).length]

/-- The querying master owns the grant a handle matches. -/
def owns (s : State) (m : MasterId) (h : Handle) : Bool :=
  match s.grantAt h with
  | some g => decide (g.owner = m)
  | none => false

/-- Kind case: a FREE case gives the state alone; the requester's tag and the victims' handles stand last, each withheld
from a querier without a right to it (R108, log 13). -/
def caseFields (s : State) (m : MasterId) (k : CaseId) : List ReplyField :=
  match s.caseAt k with
  | none => [byteField 0]
  | some x =>
    let right := (s.port m).configRight
    [byteField 1, byteField x.req.owner.val, .b1 x.req.level.code, halfField x.req.units, .b1 x.req.mode.code,
     byteField x.target.val, halfField x.earmark, timeField x.openedAt, halfField x.victims.length] ++
      (x.victims.flatMap fun v => [halfField v.units, .b1 v.state.code]) ++
      [if right || decide (x.req.owner = m) then .b2 x.req.tag else .b2 0xFFFF] ++
      x.victims.map fun v => if right || s.owns m v.handle then .b2 v.handle.toBits else .b2 0xFFFF

/-- Kind epoch: the values of R140. -/
def epochFields (s : State) : List ReplyField :=
  let e := s.epoch
  [timeField e.timebase, byteField e.number.val, .b1 e.state.code, .b1 e.level.code, halfField e.fallCount,
   halfField e.slips, halfField e.epochInterval, byteField e.fallPersistence] ++
    (e.thresholds.toList.flatMap ThresholdSet.fields) ++ e.counters.fields ++ e.lastEval.fields

/-- Kind master: the record of R162. -/
def masterFields (s : State) (j : MasterId) : List ReplyField :=
  let p := s.port j
  let r := s.master j
  let t := look s.responder.stats j
  [.b1 p.link.code, .b1 p.noticeMode.code, .b1 p.flags.code, halfField p.frameFaults, flagField p.configRight,
   halfField (s.nonEUnits j), halfField (s.eUnits j), halfField r.guaranteed, halfField r.ceiling,
   flagField r.quotaExcess, halfField (s.pendingCount j), byteField r.pendingLimit, halfField r.releaseDeadline,
   halfField r.silencePeriod, halfField r.orphanDelay, .b4 t.admitted, .b4 t.refused, .b4 t.recalled, .b4 t.revoked]

/-- The entries in a state (R161). -/
def countInState (s : State) (g : GrantState) : Nat :=
  (s.table.entries.toList.filter fun e =>
    match e.grant with
    | some x => decide (x.phase.shown = g)
    | none => decide (g = .free)).length

/-- Kind grant table: the free queue's length, the entries in each state, each master's tombstones (R161). -/
def grantTableFields (s : State) : List ReplyField :=
  [halfField s.table.freeQueue.length, halfField (s.countInState .held), halfField (s.countInState .active),
   halfField (s.countInState .recalled), halfField (s.countInState .revoked)] ++
    allMasters.map fun j => halfField (look s.table.tombstones j).length

/-- A query of an entry of a table of `n`: an index outside it is answered OUT_OF_RANGE in an ANSWER (R161). -/
def queryEntry (s : State) (m : MasterId) (tag : Half) (kind : Byte) (n : Nat) (index : Half)
    (fields : Fin n → List ReplyField) : State :=
  match numberBelow n index.toNat with
  | some i => s.reply m tag kind index (fields i)
  | none => s.answer m tag .outOfRange

/-- Kind master: a link without the right may read only its own master's record (R162). -/
def queryMaster (s : State) (m : MasterId) (tag : Half) (kind : Byte) (index : Half) : State :=
  match numberBelow 4 index.toNat with
  | none => s.answer m tag .outOfRange
  | some j =>
    if (s.port m).configRight || decide (j = m) then s.reply m tag kind index (s.masterFields j)
    else s.answer m tag .notOwner

/-- Kind grant: NO_SUCH_GRANT gives the handle; NOT_OWNER to a QUERY gives nothing and sets no flag (R162, R169). -/
def queryGrant (s : State) (m : MasterId) (tag : Half) (kind : Byte) (index : Half) : State :=
  match s.grantAt (.ofBits index) with
  | none => s.answerHandle m tag .noSuchGrant (.ofBits index)
  | some g =>
    if (s.port m).configRight || decide (g.owner = m) then
      s.reply m tag kind index (g.fields (Handle.ofBits index).gen)
    else s.answer m tag .notOwner

/-- A QUERY by its kind code (R161, R175); a kind that names none of the nine is answered OUT_OF_RANGE. The index of a
reply is the QUERY's, also for the kinds that ignore it (log 29). -/
def serveQuery (s : State) (m : MasterId) (tag : Half) (kind : Byte) (index : Half) : State :=
  match kind.toNat with
  | 1 => s.queryEntry m tag kind 12 index s.carrierFields
  | 2 => s.queryEntry m tag kind 16 index s.groupFields
  | 3 => s.queryEntry m tag kind 64 index s.classFields
  | 4 => s.reply m tag kind index (s.waitingFields m)
  | 5 => s.queryEntry m tag kind 8 index (s.caseFields m)
  | 6 => s.reply m tag kind index s.epochFields
  | 7 => s.queryMaster m tag kind index
  | 8 => s.queryGrant m tag kind index
  | 9 => s.reply m tag kind index s.grantTableFields
  | _ => s.answer m tag .outOfRange

end State

/-- QUERY_CARRIER (R161). -/
def execQueryCarrier (m : MasterId) (tag index : Half) (s : State) : Host.Outcome State Fault Refusal :=
  .next (s.onFrame m (.queryCarrier m tag index) fun s => s.serveQuery m tag 1 index)

/-- QUERY_GROUP (R161). -/
def execQueryGroup (m : MasterId) (tag index : Half) (s : State) : Host.Outcome State Fault Refusal :=
  .next (s.onFrame m (.queryGroup m tag index) fun s => s.serveQuery m tag 2 index)

/-- QUERY_CLASS (R161). -/
def execQueryClass (m : MasterId) (tag index : Half) (s : State) : Host.Outcome State Fault Refusal :=
  .next (s.onFrame m (.queryClass m tag index) fun s => s.serveQuery m tag 3 index)

/-- QUERY_WAITING (R84). -/
def execQueryWaiting (m : MasterId) (tag index : Half) (s : State) : Host.Outcome State Fault Refusal :=
  .next (s.onFrame m (.queryWaiting m tag index) fun s => s.serveQuery m tag 4 index)

/-- QUERY_CASE (R108). -/
def execQueryCase (m : MasterId) (tag index : Half) (s : State) : Host.Outcome State Fault Refusal :=
  .next (s.onFrame m (.queryCase m tag index) fun s => s.serveQuery m tag 5 index)

/-- QUERY_EPOCH (R140). -/
def execQueryEpoch (m : MasterId) (tag index : Half) (s : State) : Host.Outcome State Fault Refusal :=
  .next (s.onFrame m (.queryEpoch m tag index) fun s => s.serveQuery m tag 6 index)

/-- QUERY_MASTER (R162). -/
def execQueryMaster (m : MasterId) (tag index : Half) (s : State) : Host.Outcome State Fault Refusal :=
  .next (s.onFrame m (.queryMaster m tag index) fun s => s.serveQuery m tag 7 index)

/-- QUERY_GRANT (R162). -/
def execQueryGrant (m : MasterId) (tag index : Half) (s : State) : Host.Outcome State Fault Refusal :=
  .next (s.onFrame m (.queryGrant m tag index) fun s => s.serveQuery m tag 8 index)

/-- QUERY_GRANT_TABLE (R161). -/
def execQueryGrantTable (m : MasterId) (tag index : Half) (s : State) : Host.Outcome State Fault Refusal :=
  .next (s.onFrame m (.queryGrantTable m tag index) fun s => s.serveQuery m tag 9 index)

/-- QUERY_UNKNOWN_KIND (R161): served by the kind the frame carries (log 14). -/
def execQueryUnknownKind (m : MasterId) (tag : Half) (kind : Byte) (index : Half) (s : State) :
    Host.Outcome State Fault Refusal :=
  .next (s.onFrame m (.queryUnknownKind m tag kind index) fun s => s.serveQuery m tag kind index)

end Sys2Proof.Machine
end

