-- ==== Sys2Proof/Machine/Dispatch.lean ====
section
/-! DEFINITION. One arm for each command: its meaning. -/

namespace Sys2Proof.Machine

def exec (i : Instr) (s : State) : Host.Outcome State Fault Refusal :=
  match i with
  | .powerOn cfgr epm => Sys2Proof.Machine.execPowerOn cfgr epm s
  | .resetPin cfgr epm => Sys2Proof.Machine.execResetPin cfgr epm s
  | .linkOpen m noticeMode keep => Sys2Proof.Machine.execLinkOpen m noticeMode keep s
  | .presence m => Sys2Proof.Machine.execPresence m s
  | .admitRequest m tag code units mode => Sys2Proof.Machine.execAdmitRequest m tag code units mode s
  | .commit m tag handle => Sys2Proof.Machine.execCommit m tag handle s
  | .release m tag handle => Sys2Proof.Machine.execRelease m tag handle s
  | .cancel m tag target => Sys2Proof.Machine.execCancel m tag target s
  | .queryCarrier m tag index => Sys2Proof.Machine.execQueryCarrier m tag index s
  | .queryGroup m tag index => Sys2Proof.Machine.execQueryGroup m tag index s
  | .queryClass m tag index => Sys2Proof.Machine.execQueryClass m tag index s
  | .queryWaiting m tag index => Sys2Proof.Machine.execQueryWaiting m tag index s
  | .queryCase m tag index => Sys2Proof.Machine.execQueryCase m tag index s
  | .queryEpoch m tag index => Sys2Proof.Machine.execQueryEpoch m tag index s
  | .queryMaster m tag index => Sys2Proof.Machine.execQueryMaster m tag index s
  | .queryGrant m tag index => Sys2Proof.Machine.execQueryGrant m tag index s
  | .queryGrantTable m tag index => Sys2Proof.Machine.execQueryGrantTable m tag index s
  | .configCarrier m tag index state nominal guard => Sys2Proof.Machine.execConfigCarrier m tag index state nominal guard s
  | .configGroup m tag index mode count members => Sys2Proof.Machine.execConfigGroup m tag index mode count members s
  | .configClass m tag index valid level group maxUnits holdLimit waitLimit gate thin preempt => Sys2Proof.Machine.execConfigClass m tag index valid level group maxUnits holdLimit waitLimit gate thin preempt s
  | .configMaster m tag index guaranteed ceiling pendingLimit releaseDeadline silencePeriod orphanDelay noticeMode => Sys2Proof.Machine.execConfigMaster m tag index guaranteed ceiling pendingLimit releaseDeadline silencePeriod orphanDelay noticeMode s
  | .configThresholdSet m tag index riseOccupancy riseWaiting fallOccupancy fallWaiting => Sys2Proof.Machine.execConfigThresholdSet m tag index riseOccupancy riseWaiting fallOccupancy fallWaiting s
  | .configFallPersistence m tag index value => Sys2Proof.Machine.execConfigFallPersistence m tag index value s
  | .configEpochInterval m tag index value => Sys2Proof.Machine.execConfigEpochInterval m tag index value s
  | .configThinRatio m tag index value => Sys2Proof.Machine.execConfigThinRatio m tag index value s
  | .configRadioSilencePeriod m tag index value => Sys2Proof.Machine.execConfigRadioSilencePeriod m tag index value s
  | .clearFault m tag flags => Sys2Proof.Machine.execClearFault m tag flags s
  | .clearState m tag => Sys2Proof.Machine.execClearState m tag s
  | .clearFull m tag => Sys2Proof.Machine.execClearFull m tag s
  | .clearStats m tag target => Sys2Proof.Machine.execClearStats m tag target s
  | .frameFault m => Sys2Proof.Machine.execFrameFault m s
  | .receiveBufferOverflow m => Sys2Proof.Machine.execReceiveBufferOverflow m s
  | .radioOpen tag => Sys2Proof.Machine.execRadioOpen tag s
  | .carrierReport carrier available => Sys2Proof.Machine.execCarrierReport carrier available s
  | .epochTick number => Sys2Proof.Machine.execEpochTick number s
  | .radioFrameFault => Sys2Proof.Machine.execRadioFrameFault s
  | .holdExpiry handle => Sys2Proof.Machine.execHoldExpiry handle s
  | .waitExpiry m tag => Sys2Proof.Machine.execWaitExpiry m tag s
  | .recallDeadlineExpiry handle => Sys2Proof.Machine.execRecallDeadlineExpiry handle s
  | .silenceExpiry m => Sys2Proof.Machine.execSilenceExpiry m s
  | .orphanStage1 m => Sys2Proof.Machine.execOrphanStage1 m s
  | .orphanStage2 m => Sys2Proof.Machine.execOrphanStage2 m s
  | .radioSilenceExpiry => Sys2Proof.Machine.execRadioSilenceExpiry s
  | .intervalTimerExpiry => Sys2Proof.Machine.execIntervalTimerExpiry s
  | .lossTimerExpiry => Sys2Proof.Machine.execLossTimerExpiry s
  | .suspension m => Sys2Proof.Machine.execSuspension m s
  | .outboundSend m => Sys2Proof.Machine.execOutboundSend m s
  | .radioOutboundSend => Sys2Proof.Machine.execRadioOutboundSend s
  | .pinResetEnd => Sys2Proof.Machine.execPinResetEnd s
  | .radioReceiveBufferOverflow => Sys2Proof.Machine.execRadioReceiveBufferOverflow s
  | .outboundFrameSent m => Sys2Proof.Machine.execOutboundFrameSent m s
  | .configUnknownTable m tag table index => Sys2Proof.Machine.execConfigUnknownTable m tag table index s
  | .queryUnknownKind m tag kind index => Sys2Proof.Machine.execQueryUnknownKind m tag kind index s
  | .deviceClearUnknownDepth m tag depth => Sys2Proof.Machine.execDeviceClearUnknownDepth m tag depth s

end Sys2Proof.Machine
end

