-- ==== Sys2Proof/Machine/Inward.lean ====
section
/-! DEFINITION. The receive buffers (R145, R156): which link a frame stands on, how a frame comes in while an earlier one is
being served, and how a port passes the frame at the head of its buffer inward. -/

namespace Sys2Proof

/-- CONFIG, DEVICE_CLEAR and CLEAR_STATS need the configuration right (R158): the link and the tag of such a frame. -/
def Instr.needsRight : Instr → Option (Machine.MasterId × Half)
  | .configCarrier m tag .. => some (m, tag)
  | .configGroup m tag .. => some (m, tag)
  | .configClass m tag .. => some (m, tag)
  | .configMaster m tag .. => some (m, tag)
  | .configThresholdSet m tag .. => some (m, tag)
  | .configFallPersistence m tag .. => some (m, tag)
  | .configEpochInterval m tag .. => some (m, tag)
  | .configThinRatio m tag .. => some (m, tag)
  | .configRadioSilencePeriod m tag .. => some (m, tag)
  | .configUnknownTable m tag .. => some (m, tag)
  | .clearState m tag => some (m, tag)
  | .clearFull m tag => some (m, tag)
  | .deviceClearUnknownDepth m tag _ => some (m, tag)
  | .clearStats m tag _ => some (m, tag)
  | _ => none

/-- A QUERY: the link, the tag, the kind and the index of the frame (R161). -/
def Instr.queryFields : Instr → Option (Machine.MasterId × Half × Byte × Half)
  | .queryCarrier m tag i => some (m, tag, 1, i)
  | .queryGroup m tag i => some (m, tag, 2, i)
  | .queryClass m tag i => some (m, tag, 3, i)
  | .queryWaiting m tag i => some (m, tag, 4, i)
  | .queryCase m tag i => some (m, tag, 5, i)
  | .queryEpoch m tag i => some (m, tag, 6, i)
  | .queryMaster m tag i => some (m, tag, 7, i)
  | .queryGrant m tag i => some (m, tag, 8, i)
  | .queryGrantTable m tag i => some (m, tag, 9, i)
  | .queryUnknownKind m tag k i => some (m, tag, k, i)
  | _ => none

/-- The link a valid frame other than LINK_OPEN arrives on (R143). -/
def Instr.frameOn : Instr → Option Machine.MasterId
  | .presence m => some m
  | .admitRequest m .. => some m
  | .commit m .. => some m
  | .release m .. => some m
  | .cancel m .. => some m
  | .clearFault m .. => some m
  | c => (c.queryFields.map Prod.fst).or (c.needsRight.map Prod.fst)

namespace Machine.State

/-- A frame is passed inward to the block that serves it (R145, R156). Its arrival has restarted the silence timer. A fault
whose turn has come is counted (log 33). A command that does not wait in a receive buffer is nothing to pass. -/
def passInward (c : Instr) (s : State) : State :=
  match c with
  | .presence _ => s
  | .frameFault m => s.countFrameFault m
  | .admitRequest m tag code units mode => s.serveAdmit m tag code units mode
  | .commit m tag handle => s.commitFrame m tag handle
  | .release m tag handle => s.releaseFrame m tag handle
  | .cancel m tag target => s.serveCancel m tag target
  | .queryCarrier m tag index => s.serveQuery m tag 1 index
  | .queryGroup m tag index => s.serveQuery m tag 2 index
  | .queryClass m tag index => s.serveQuery m tag 3 index
  | .queryWaiting m tag index => s.serveQuery m tag 4 index
  | .queryCase m tag index => s.serveQuery m tag 5 index
  | .queryEpoch m tag index => s.serveQuery m tag 6 index
  | .queryMaster m tag index => s.serveQuery m tag 7 index
  | .queryGrant m tag index => s.serveQuery m tag 8 index
  | .queryGrantTable m tag index => s.serveQuery m tag 9 index
  | .queryUnknownKind m tag kind index => s.serveQuery m tag kind index
  | .configCarrier m tag index state nominal guard => s.configCarrierFrame m tag index state nominal guard
  | .configGroup m tag index mode count members => s.configGroupFrame m tag index mode count members
  | .configClass m tag index valid level group maxUnits holdLimit waitLimit gate thin preempt =>
    s.configClassFrame m tag index valid level group maxUnits holdLimit waitLimit gate thin preempt
  | .configMaster m tag index guaranteed ceiling pendingLimit releaseDeadline silencePeriod orphanDelay noticeMode =>
    s.configMasterFrame m tag index guaranteed ceiling pendingLimit releaseDeadline silencePeriod orphanDelay noticeMode
  | .configThresholdSet m tag index riseOccupancy riseWaiting fallOccupancy fallWaiting =>
    s.configThresholdsFrame m tag index riseOccupancy riseWaiting fallOccupancy fallWaiting
  | .configFallPersistence m tag index value => s.configFallPersistenceFrame m tag index value
  | .configEpochInterval m tag index value => s.configEpochIntervalFrame m tag index value
  | .configThinRatio m tag index value => s.configThinRatioFrame m tag index value
  | .configRadioSilencePeriod m tag index value => s.configRadioSilenceFrame m tag index value
  | .configUnknownTable m tag .. => s.configUnknownFrame m tag
  | .clearFault m tag flags => s.serveClearFault m tag (.ofBits flags)
  | .clearState m tag => s.serveDeviceClear m tag 1
  | .clearFull m tag => s.serveDeviceClear m tag 2
  | .deviceClearUnknownDepth m tag depth => s.serveDeviceClear m tag depth.toNat
  | .clearStats m tag target => s.serveClearStats m tag target
  | .radioOpen tag => s.openRadio tag
  | .carrierReport carrier available => s.report carrier available
  | .epochTick number => s.tickFrame number
  | _ => s

/-- The port passes inward only in UP and STALE; the frame at the head of its buffer is the next (R145). -/
def nextFrame (s : State) (m : MasterId) : Option Instr :=
  match (s.port m).link with
  | .down | .orphaned | .suspended => none
  | .up | .stale => (s.port m).rxBuffer.head?

/-- The frame the radio port passes inward next. -/
def nextRadioFrame (s : State) : Option Instr :=
  match s.radio.link with
  | .down => none
  | .up | .stale => s.radio.rxBuffer.head?

/-- The head of port m's receive buffer leaves it. -/
def popBuffer (s : State) (m : MasterId) : State := s.modPort m fun p => { p with rxBuffer := p.rxBuffer.tail }

/-- The head of the radio link's receive buffer leaves it. -/
def popRadioBuffer (s : State) : State := s.modRadio fun r => { r with rxBuffer := r.rxBuffer.tail }

/-- The next waiting frame is passed inward: of the master links in number order the first that has one, else the radio
link's (log 10). -/
def passWaiting (s : State) : Option State :=
  match allMasters.findSome? fun m => (s.nextFrame m).map fun c => (s.popBuffer m).passInward c with
  | some t => some t
  | none => s.nextRadioFrame.map fun c => s.popRadioBuffer.passInward c

/-- `arrive` for what is no frame of a master link other than LINK_OPEN. -/
def arriveOther (s : State) (c : Instr) : State :=
  match c with
  | .linkOpen m noticeMode keep => s.takeLinkOpen m noticeMode keep
  | .frameFault m => s.noteFault m
  | .receiveBufferOverflow m => s.noteFault m
  | .radioFrameFault => s
  | .radioReceiveBufferOverflow => s
  | .powerOn cfgr epm => s.powerUp cfgr epm
  | .resetPin cfgr epm => s.resetLow cfgr epm
  | .pinResetEnd => s.resetHigh
  | .carrierReport .. => s.holdRadio c
  | .epochTick _ => s.holdRadio c
  | .radioOpen tag =>
    match s.radio.link with
    | .down => s.takeRadioOpen tag
    | .up | .stale => s.holdRadioOpen tag
  | _ => { s with pending := s.pending ++ [c] }

/-- What has come in while a step was being served, put in when that step has ended, in the order of arrival (R145, R156).
A frame of a master link waits in its port's receive buffer. A LINK_OPEN is taken, the claim it had to let end having been
served: what waits in the buffer arrived before it and goes; a frame or another LINK_OPEN that comes behind it finds the
link it opened. A fault is counted in its turn (R155). On an open radio link a frame waits in the radio link's buffer; a RADIO_OPEN
that finds the link DOWN opens it. Power and RESET_N act at once. The other commands come from no link and no pin: they stand
behind those of `pending`, which come when they are served. Steps are whole, so it is the part's surroundings that say when
this happens (log 10). -/
def arrive (c : Instr) (s : State) : State :=
  match c.frameOn with
  | some m => s.hold m c
  | none => s.arriveOther c

end Machine.State

end Sys2Proof
end

