-- ==== Sys2Proof/Machine/Step.lean ====
section
/-! DEFINITION. One step of the part: the command at the front of the queue is served whole; with none waiting, the part's
own due event is served, else a frame that waits in a receive buffer, else a millisecond passes (log 2, log 10). -/

namespace Sys2Proof.Machine

def step (s : State) : Host.Outcome State Fault Refusal :=
  match s.pending with
  | c :: rest => exec c { s with pending := rest }
  | [] =>
    match s.dueEvent with
    | some c => exec c s
    | none =>
      match s.passWaiting with
      | some t => .next t
      | none => .next s.tick

/-- The command a table word spells, put at the front of the queue; no row of the table has bits (log 19). -/
def State.withFetchWord (s : State) (nbits w : Nat) : State :=
  match decodeTableWord nbits w with
  | some c => { s with pending := c :: s.pending }
  | none => s

end Sys2Proof.Machine
end

