-- ==== Sys2Proof/Machine/Wire.lean ====
section
/-! DEFINITION. The bytes of frames (10): the frame check, the frames the part sends, and how received bytes become
commands (R144, R167 to R175). -/

namespace Sys2Proof.Machine

/-! ### The frame check (R168) -/

/-- One bit of the CRC, most significant bit first: x^16 + x^12 + x^5 + 1. -/
def crcBit (r : BitVec 16) : BitVec 16 := if r.msb then (r <<< 1) ^^^ 0x1021 else r <<< 1

def crcByte (r : BitVec 16) (b : Byte) : BitVec 16 :=
  crcBit (crcBit (crcBit (crcBit (crcBit (crcBit (crcBit (crcBit (r ^^^ (b.zeroExtend 16 <<< 8)))))))))

/-- The check over the bytes, in the order sent. -/
def crc (bytes : List Byte) : BitVec 16 := bytes.foldl crcByte 0xFFFF

/-! ### Fields, most significant byte first (R168) -/

def bytes2 (v : BitVec 16) : List Byte := [v.extractLsb' 8 8, v.extractLsb' 0 8]

def bytes4 (v : BitVec 32) : List Byte := bytes2 (v.extractLsb' 16 16) ++ bytes2 (v.extractLsb' 0 16)

def bytes6 (v : BitVec 48) : List Byte := bytes2 (v.extractLsb' 32 16) ++ bytes4 (v.extractLsb' 0 32)

def ReplyField.bytes : ReplyField → List Byte
  | .b1 v => [v]
  | .b2 v => bytes2 v
  | .b4 v => bytes4 v
  | .b6 v => bytes6 v

/-- A number in a two-byte field. -/
def numberBytes (n : Nat) : List Byte := bytes2 (BitVec.ofNat 16 (min n 65535))

/-- The 16-bit field two received bytes spell. -/
def half (high low : Byte) : Half := high ++ low

/-! ### Frames sent -/

/-- The body tag (R169). -/
def OutFrame.tag : OutFrame → Half
  | .answer t .. => t
  | .queryReply t .. => t
  | .queued t _ => t
  | .hello .. | .recallNotice .. | .revokedNotice .. | .moveAdvised .. | .fault .. | .epoch .. | .level ..
  | .radioStale => 0

/-- The type byte (R171). -/
def OutFrame.type : OutFrame → Byte
  | .hello .. => 0x80
  | .answer .. => 0x81
  | .queryReply .. => 0x82
  | .recallNotice .. => 0x90
  | .revokedNotice .. => 0x91
  | .moveAdvised .. => 0x92
  | .fault .. => 0x93
  | .queued .. => 0xA0
  | .epoch .. => 0xA1
  | .level .. => 0xA2
  | .radioStale => 0xA3

/-- The presence byte of an ANSWER (R171). -/
def presence (handle : Option Handle) (carrier : Option CarrierId) (state : Option GrantState)
    (flags : Option FaultFlags) : Byte :=
  (if handle.isSome then 1 else 0) + (if carrier.isSome then 2 else 0) + (if state.isSome then 4 else 0) +
    (if flags.isSome then 8 else 0)

/-- The part byte of a QUERY_REPLY: part number, and the last-part marker in bit 7 (R171). -/
def partByte (part : Nat) (last : Bool) : Byte :=
  (BitVec.ofNat 8 part &&& 0x7F) ||| (if last then 0x80 else 0)

/-- The fields after the tag; an absent field of an ANSWER is sent as 0 (R169, R171). -/
def OutFrame.fields : OutFrame → List Byte
  | .hello rc lc sr ep l fl rev =>
    [rc.code, linkCauseCode lc, suspendReasonCode sr, BitVec.ofNat 8 ep.val, l.code, fl.code, BitVec.ofNat 8 rev]
  | .answer _ o h c st fl =>
    [o.code, presence h c st fl] ++ bytes2 ((h.map Handle.toBits).getD 0) ++
      [(c.map fun c => BitVec.ofNat 8 c.val).getD 0, (st.map GrantState.code).getD 0,
       (fl.map FaultFlags.code).getD 0]
  | .queryReply _ k i part last fs => k :: bytes2 i ++ partByte part last :: fs.flatMap ReplyField.bytes
  | .recallNotice h c d => bytes2 h.toBits ++ c.code :: numberBytes d
  | .revokedNotice h c => bytes2 h.toBits ++ [c.code]
  | .moveAdvised h => bytes2 h.toBits
  | .fault fl => [fl.code]
  | .queued _ p => [p.code]
  | .epoch n l k => [BitVec.ofNat 8 n.val, l.code, k.code]
  | .level o n => [o.code, n.code]
  | .radioStale => []

def RadioFrame.tag : RadioFrame → Half
  | .radioHello t .. => t
  | .occupancy .. => 0

/-- The type byte (R172). -/
def RadioFrame.type : RadioFrame → Byte
  | .radioHello .. => 0xE0
  | .occupancy .. => 0xE1

/-- The fields after the tag (R172). -/
def RadioFrame.fields : RadioFrame → List Byte
  | .radioHello _ rc ep => [rc.code, BitVec.ofNat 8 ep.val]
  | .occupancy ep values =>
    BitVec.ofNat 8 ep.val :: values.flatMap fun v => numberBytes v.1 ++ numberBytes v.2

/-- A body shorter than 4 bytes gets one filler byte (R168). -/
def body (type : Byte) (tag : Half) (fields : List Byte) : List Byte :=
  let b := type :: bytes2 tag ++ fields
  if b.length < 4 then b ++ [0] else b

/-- The sync byte (R167). -/
def syncByte : Byte := 0xD3

/-- A frame as it stands on the wire (R167, R168). -/
def framed (body : List Byte) : List Byte :=
  let checked := BitVec.ofNat 8 body.length :: body
  syncByte :: checked ++ bytes2 (crc checked)

def OutFrame.bytes (f : OutFrame) : List Byte := framed (body f.type f.tag f.fields)

def RadioFrame.bytes (f : RadioFrame) : List Byte := framed (body f.type f.tag f.fields)

/-! ### Frames of the far ends -/

/-- A QUERY frame's body. -/
def queryBody (tag : Half) (kind : Byte) (index : Half) : List Byte := body 0x30 tag (kind :: bytes2 index)

/-- A CONFIG frame's body. -/
def configBody (tag : Half) (table index : Byte) (entry : List Byte) : List Byte :=
  body 0x40 tag (table :: index :: entry)

/-- The master a frame command comes from and the body its controller sends (R170). A tag that the command leaves out is
sent as 0. -/
def controllerFrame : Instr → Option (MasterId × List Byte)
  | .linkOpen m n k => some (m, body 0x10 0 [n, k])
  | .presence m => some (m, body 0x11 0 [0])
  | .admitRequest m tag c u md => some (m, body 0x20 tag [c, u, md])
  | .commit m tag h => some (m, body 0x21 tag (bytes2 h))
  | .release m tag h => some (m, body 0x22 tag (bytes2 h))
  | .cancel m tag t => some (m, body 0x23 tag (bytes2 t))
  | .queryCarrier m tag i => some (m, queryBody tag 1 i)
  | .queryGroup m tag i => some (m, queryBody tag 2 i)
  | .queryClass m tag i => some (m, queryBody tag 3 i)
  | .queryWaiting m tag i => some (m, queryBody tag 4 i)
  | .queryCase m tag i => some (m, queryBody tag 5 i)
  | .queryEpoch m tag i => some (m, queryBody tag 6 i)
  | .queryMaster m tag i => some (m, queryBody tag 7 i)
  | .queryGrant m tag i => some (m, queryBody tag 8 i)
  | .queryGrantTable m tag i => some (m, queryBody tag 9 i)
  | .queryUnknownKind m tag k i => some (m, queryBody tag k i)
  | .configCarrier m tag i st n g => some (m, configBody tag 1 i (st :: bytes2 n ++ bytes2 g))
  | .configGroup m tag i mode count members => some (m, configBody tag 2 i (mode :: count :: members))
  | .configClass m tag i v l g u h w ga th pr =>
    some (m, configBody tag 3 i (v :: l :: g :: u :: bytes2 h ++ bytes2 w ++ [ga, th, pr]))
  | .configMaster m tag i g c pl rd sp od nm =>
    some (m, configBody tag 4 i (bytes2 g ++ bytes2 c ++ pl :: bytes2 rd ++ bytes2 sp ++ bytes2 od ++ [nm]))
  | .configThresholdSet m tag i ro rw fo fw => some (m, configBody tag 5 i [ro, rw, fo, fw])
  | .configFallPersistence m tag i v => some (m, configBody tag 6 i [v])
  | .configEpochInterval m tag i v => some (m, configBody tag 7 i (bytes2 v))
  | .configThinRatio m tag i v => some (m, configBody tag 8 i [v])
  | .configRadioSilencePeriod m tag i v => some (m, configBody tag 9 i (bytes2 v))
  | .configUnknownTable m tag t i => some (m, configBody tag t i [])
  | .clearFault m tag f => some (m, body 0x41 tag [f])
  | .clearState m tag => some (m, body 0x42 tag [1])
  | .clearFull m tag => some (m, body 0x42 tag [2])
  | .deviceClearUnknownDepth m tag d => some (m, body 0x42 tag [d])
  | .clearStats m tag t => some (m, body 0x43 tag [t])
  | .powerOn .. | .resetPin .. | .frameFault .. | .receiveBufferOverflow .. | .radioOpen .. | .carrierReport ..
  | .epochTick .. | .radioFrameFault | .holdExpiry .. | .waitExpiry .. | .recallDeadlineExpiry ..
  | .silenceExpiry .. | .orphanStage1 .. | .orphanStage2 .. | .radioSilenceExpiry | .intervalTimerExpiry
  | .lossTimerExpiry | .suspension .. | .outboundSend .. | .radioOutboundSend | .pinResetEnd
  | .radioReceiveBufferOverflow | .outboundFrameSent .. => none

/-- The body the radio head sends for a command (R172). -/
def radioHeadFrame : Instr → Option (List Byte)
  | .radioOpen tag => some (body 0xC0 tag [0])
  | .carrierReport c a => some (body 0xC1 0 (c :: bytes2 a))
  | .epochTick n => some (body 0xC2 0 [n])
  | _ => none

/-! ### Frames received -/

/-- A QUERY by its kind (R175). -/
def queryOf (m : MasterId) (tag : Half) (kind : Byte) (index : Half) : Instr :=
  match kind.toNat with
  | 1 => .queryCarrier m tag index
  | 2 => .queryGroup m tag index
  | 3 => .queryClass m tag index
  | 4 => .queryWaiting m tag index
  | 5 => .queryCase m tag index
  | 6 => .queryEpoch m tag index
  | 7 => .queryMaster m tag index
  | 8 => .queryGrant m tag index
  | 9 => .queryGrantTable m tag index
  | _ => .queryUnknownKind m tag kind index

/-- A group write carries the member bytes its count needs (R170). -/
def groupOf (m : MasterId) (tag : Half) (index mode count : Byte) (rest : List Byte) : Option Instr :=
  if rest.length < memberBytesNeeded count then none
  else some (.configGroup m tag index mode count (rest.take (memberBytesNeeded count)))

/-- A CONFIG by its table code; none when the entry bytes fall short (R144, R170). -/
def configOf (m : MasterId) (tag : Half) (table index : Byte) (entry : List Byte) : Option Instr :=
  match table.toNat, entry with
  | 1, st :: n1 :: n0 :: g1 :: g0 :: _ => some (.configCarrier m tag index st (half n1 n0) (half g1 g0))
  | 2, mode :: count :: rest => groupOf m tag index mode count rest
  | 3, v :: l :: g :: u :: h1 :: h0 :: w1 :: w0 :: ga :: th :: pr :: _ =>
    some (.configClass m tag index v l g u (half h1 h0) (half w1 w0) ga th pr)
  | 4, g1 :: g0 :: c1 :: c0 :: pl :: r1 :: r0 :: s1 :: s0 :: o1 :: o0 :: nm :: _ =>
    some (.configMaster m tag index (half g1 g0) (half c1 c0) pl (half r1 r0) (half s1 s0) (half o1 o0) nm)
  | 5, ro :: rw :: fo :: fw :: _ => some (.configThresholdSet m tag index ro rw fo fw)
  | 6, v :: _ => some (.configFallPersistence m tag index v)
  | 7, v1 :: v0 :: _ => some (.configEpochInterval m tag index (half v1 v0))
  | 8, v :: _ => some (.configThinRatio m tag index v)
  | 9, v1 :: v0 :: _ => some (.configRadioSilencePeriod m tag index (half v1 v0))
  | t, _ => if 1 ≤ t ∧ t ≤ 9 then none else some (.configUnknownTable m tag table index)

/-- A DEVICE_CLEAR by its depth (R175). -/
def deviceClearOf (m : MasterId) (tag : Half) (depth : Byte) : Instr :=
  match depth.toNat with
  | 1 => .clearState m tag
  | 2 => .clearFull m tag
  | _ => .deviceClearUnknownDepth m tag depth

/-- The command a body on a master link is; none where it is a fault (R144, R170). -/
def commandOf (m : MasterId) : List Byte → Option Instr
  | type :: t1 :: t0 :: fields =>
    let tag := half t1 t0
    match type.toNat, fields with
    | 0x10, n :: k :: _ => some (.linkOpen m n k)
    | 0x11, _ :: _ => some (.presence m)
    | 0x20, c :: u :: mode :: _ => some (.admitRequest m tag c u mode)
    | 0x21, h1 :: h0 :: _ => some (.commit m tag (half h1 h0))
    | 0x22, h1 :: h0 :: _ => some (.release m tag (half h1 h0))
    | 0x23, h1 :: h0 :: _ => some (.cancel m tag (half h1 h0))
    | 0x30, kind :: i1 :: i0 :: _ => some (queryOf m tag kind (half i1 i0))
    | 0x40, table :: index :: entry => configOf m tag table index entry
    | 0x41, f :: _ => some (.clearFault m tag f)
    | 0x42, d :: _ => some (deviceClearOf m tag d)
    | 0x43, t :: _ => some (.clearStats m tag t)
    | _, _ => none
  | _ => none

/-- The command a body on the radio link is; none where it is a fault (R156, R172). -/
def radioCommandOf : List Byte → Option Instr
  | type :: t1 :: t0 :: fields =>
    match type.toNat, fields with
    | 0xC0, _ :: _ => some (.radioOpen (half t1 t0))
    | 0xC1, c :: a1 :: a0 :: _ => some (.carrierReport c (half a1 a0))
    | 0xC2, n :: _ => some (.epochTick n)
    | _, _ => none
  | _ => none

/-- The test of a frame whose bytes are complete: its length, its check, its type and its fields (R144). -/
def testFrame (parse : List Byte → Option Instr) (length : Byte) (body check : List Byte) : Option Instr :=
  if 4 ≤ length.toNat ∧ length.toNat ≤ 60 ∧ bytes2 (crc (length :: body)) = check then parse body else none

/-- A port receives bytes (R144): it hunts for the sync byte; a frame that passes the test is its command; after a fault
it hunts again from the byte after the sync byte. It answers the commands and the bytes of a frame that is not complete.
`fuel` bounds the bytes looked at. -/
def hunt (parse : List Byte → Option Instr) (fault : Instr) : Nat → List Byte → List Instr × List Byte
  | 0, bytes => ([], bytes)
  | _ + 1, [] => ([], [])
  | fuel + 1, b :: rest =>
    if b = syncByte then
      match rest with
      | [] => ([], b :: rest)
      | length :: more =>
        if more.length < length.toNat + 2 then ([], b :: rest)
        else
          match testFrame parse length (more.take length.toNat) ((more.drop length.toNat).take 2) with
          | some c =>
            let r := hunt parse fault fuel (more.drop (length.toNat + 2))
            (c :: r.1, r.2)
          | none =>
            let r := hunt parse fault fuel rest
            (fault :: r.1, r.2)
    else hunt parse fault fuel rest

/-- What bytes on a master link become; bytes left over stand in front of the bytes that follow (log 17). -/
def receive (m : MasterId) (bytes : List Byte) : List Instr × List Byte :=
  hunt (commandOf m) (.frameFault m) bytes.length bytes

/-- What bytes on the radio link become. -/
def receiveRadio (bytes : List Byte) : List Instr × List Byte :=
  hunt radioCommandOf .radioFrameFault bytes.length bytes

end Sys2Proof.Machine
end

