-- ==== Sys2Proof/Safety.lean ====
section
/-! DEFINITION. What the statements speak of: the part of the state that no claim on the pool changes, and the invariants
that every step keeps. -/

namespace Sys2Proof

/-- The frames of the radio head (R156). -/
def Instr.isRadioFrame : Instr → Bool
  | .radioOpen _ => true
  | .carrierReport _ _ => true
  | .epochTick _ => true
  | _ => false

end Sys2Proof

namespace Sys2Proof.Machine

/-! ### What a claim on the pool leaves alone

A claim and its continuation change grants, carriers' lists, cases, waiting entries, the engine's own state, counters, and
of a port the outbound queue, overrun pending and the fault flags. Everything else is the skeleton. -/

def Port.skeleton (p : Port) : Port := { p with queue := [], overrun := false, flags := {} }

def Carrier.skeleton (k : Carrier) : Carrier := { k with occupancy := [], marks := [], isOver := false }

def MasterRecord.skeleton (r : MasterRecord) : MasterRecord := { r with quotaExcess := false }

def GrantTable.empty : GrantTable :=
  { entries := Vector.replicate 1024 ⟨0, none⟩, freeQueue := [], tombstones := Vector.replicate 4 [] }

/-- The state with everything a claim may change put aside. -/
def State.skeleton (s : State) : State :=
  { s with
    ports := s.ports.map Port.skeleton
    pool := { s.pool with carriers := s.pool.carriers.map Carrier.skeleton
                          masters := s.pool.masters.map MasterRecord.skeleton }
    table := .empty
    engine := .initial
    waiting := .initial
    recallUnit := .initial
    epoch := { s.epoch with counters := .zero }
    responder := { s.responder with stats := Vector.replicate 4 .zero } }

/-! ### Words of the statements -/

/-- The link of master m takes frames: it is UP or STALE (R143). -/
def State.Listens (s : State) (m : MasterId) : Prop := (s.port m).link = .up ∨ (s.port m).link = .stale

/-- A frame of master m is served as it arrives: its link takes frames and nothing of it that arrived earlier waits (R143,
R145). -/
def State.Serves (s : State) (m : MasterId) : Prop := s.Listens m ∧ (s.port m).rxBuffer = []

/-- A report or a tick is served as it arrives: the radio link is UP or STALE and no earlier frame waits (R156). -/
def State.RadioServes (s : State) : Prop :=
  (s.radio.link = .up ∨ s.radio.link = .stale) ∧ s.radio.rxBuffer = []

/-- The queue of port m takes an answer: fewer than 64 frames, no overrun pending (R152, R153). -/
def State.HasRoom (s : State) (m : MasterId) : Prop :=
  (s.port m).queue.length < 64 ∧ (s.port m).overrun = false

/-- An ANSWER that gives the tag and the outcome alone (R169). -/
def plainAnswer (tag : Half) (o : AnswerCode) : OutFrame := .answer tag o none none none none

/-- The part right after a reset of the given cause, every block by its own rule: R24 (pool), R25 and R42 (intake), R69
(table, engine), R85 (store), R109 and R125 (Recall Unit), R141 (epochs), R142 (ports), R156 and R157 (radio), R160
(master records), R163 (statistics). -/
structure State.IsReset (t : State) (cause : ResetCause) (straps : Straps) : Prop where
  carriers : ∀ c, t.carrier c =
    { state := .off, nominal := 0, guard := 0, reported := none, occupancy := [],
      marks := [], isOver := false }
  groups : ∀ g, t.group g = { members := [], mode := none }
  masters : ∀ m, t.master m =
    { guaranteed := 0, ceiling := 12276, pendingLimit := 32, releaseDeadline := 250,
      silencePeriod := 2000, orphanDelay := 10000, quotaExcess := false }
  classes : ∀ c, look t.intake.classes c =
    { valid := false, level := .p2, group := 0, maxUnits := 1,
      holdLimit := 5000, waitLimit := 2000, gate := .none, thin := false, preempt := false }
  thinRatio : t.intake.thinRatio = 4
  thinning : ∀ m c, look (look t.intake.thinning m) c = 0
  entries : ∀ i, look t.table.entries i = { gen := 0, grant := none }
  freeQueue : t.table.freeQueue.length = 1024 ∧ ∀ i : GrantIndex, t.table.freeQueue[i.val]? = some i
  tombstones : ∀ m, look t.table.tombstones m = []
  engine : t.engine = { p1Pointer := 0, p2Pointer := 0, due := [], retryDue := false }
  eList : t.waiting.eList = []
  priorityLists : ∀ m, look t.waiting.p1Lists m = [] ∧ look t.waiting.p2Lists m = []
  cases : (∀ k, t.caseAt k = none) ∧ t.recallUnit.age = []
  shed : ∀ c, look t.recallUnit.shed c =
    { deficit := 0, holdsBroken := 0, grantsRecalled := 0, grantsAdvised := 0,
      casesRolledBack := 0 }
  clock : t.epoch.timebase = 0 ∧ t.epoch.number = 0 ∧ t.epoch.slips = 0
  epochState : t.epoch.state = (if straps.epm then .follow else .source) ∧
    t.epoch.intervalTimer = (if straps.epm then none else some 1000) ∧
    t.epoch.lossTimer = (if straps.epm then some 3000 else none)
  load : t.epoch.level = .normal ∧ t.epoch.fallCount = 0 ∧ t.epoch.counters = .zero ∧ t.epoch.lastEval = .cleared
  thresholds : look t.epoch.thresholds 0 = ⟨70, 8, 60, 2⟩ ∧ look t.epoch.thresholds 1 = ⟨85, 32, 75, 16⟩ ∧
    look t.epoch.thresholds 2 = ⟨95, 96, 88, 64⟩
  epochSettings : t.epoch.fallPersistence = 3 ∧ t.epoch.epochInterval = 1000
  ports : ∀ m, t.port m =
    { link := .down, silence := none, orphan := none, frameFaults := 0, rxBuffer := [],
      queue := [], sending := none, noticeMode := .full, flags := ⟨false, false, false⟩, lastCause := none,
      suspendReason := none, overrun := false,
      configRight := straps.cfgr.getLsbD m.val || (decide (straps.cfgr = 0) && decide (m = 0)) }
  radio : t.radio = { link := .down, silence := none, rxBuffer := [], queue := [], silencePeriod := 1000 }
  stats : ∀ m, look t.responder.stats m = { admitted := 0, refused := 0, recalled := 0, revoked := 0 }
  cause : t.responder.resetCause = cause ∧ t.responder.straps = straps

/-- The port as it stands but for the frames queued and overrun pending. -/
def Port.unqueued (p : Port) : Port := { p with queue := [], overrun := false }

/-- The link of master m serves a frame as it arrives and holds the configuration right (R143, R158). -/
def State.MayWrite (s : State) (m : MasterId) : Prop := s.Serves m ∧ (s.port m).configRight = true

/-- R29 check 4, R39: a waiting entry of master m, in any of its lists, has the tag. -/
def State.WaitsUnder (s : State) (m : MasterId) (tag : Half) : Prop :=
  (∃ w ∈ s.waiting.eList, w.req.owner = m ∧ w.req.tag = tag) ∨
  (∃ w ∈ look s.waiting.p1Lists m, w.req.tag = tag) ∨ ∃ w ∈ look s.waiting.p2Lists m, w.req.tag = tag

/-- R29 check 4, R39: case k is open for master m's request under the tag. -/
def State.CaseUnder (s : State) (m : MasterId) (tag : Half) (k : CaseId) : Prop :=
  ∃ x, s.caseAt k = some x ∧ x.req.owner = m ∧ x.req.tag = tag

/-- The entry is as it was, or its RECALLED grant has lost its case, which has ended, and nothing else (R105). -/
def State.KeptButDetached (s u : State) (i : GrantIndex) : Prop :=
  look u.table.entries i = look s.table.entries i ∨
  ∃ g cause d j, (look s.table.entries i).grant = some g ∧ g.phase = .recalled cause d (some j) ∧ u.caseAt j = none ∧
    look u.table.entries i = ⟨(look s.table.entries i).gen, some { g with phase := .recalled cause d none }⟩

/-- The grant of an entry has left its carrier's list, and its units have gone where R13 sends them: the carrier is due, or
the case it was attached to has the more in its earmark or has ended. A tombstone held none. -/
def State.UnitsLeft (s u : State) (i : GrantIndex) (g : Grant) : Prop :=
  let h : Handle := ⟨(look s.table.entries i).gen, i⟩
  let off := (u.carrier g.carrier).occupancy.count h = (s.carrier g.carrier).occupancy.count h - 1
  match g.phase with
  | .held _ | .active | .recalled _ _ none => off ∧ (g.units = 0 ∨ g.carrier ∈ u.engine.due)
  | .recalled _ _ (some j) => off ∧ (u.caseAt j = none ∨
      ∃ x y, s.caseAt j = some x ∧ u.caseAt j = some y ∧ x.earmark + g.units ≤ y.earmark)
  | .revoked _ => True

/-- What configuration wrote, and the rights and straps that decide who may write: the settings of R21 to R23, R26, R37,
R139, R156, R160 but for the notice mode, which LINK_OPEN writes too. -/
structure Settings where
  carriers : List (CarrierState × Nat × Nat)
  groups : List Group
  masters : List MasterRecord
  classes : List ServiceClass
  thinRatio : Nat
  thresholds : List ThresholdSet
  fallPersistence : Nat
  epochInterval : Nat
  radioSilencePeriod : Nat
  rights : List Bool
  straps : Straps
  deriving DecidableEq, Repr

def State.settings (s : State) : Settings :=
  { carriers := s.pool.carriers.toList.map fun k => (k.state, k.nominal, k.guard)
    groups := s.pool.groups.toList
    masters := s.pool.masters.toList.map MasterRecord.skeleton
    classes := s.intake.classes.toList
    thinRatio := s.intake.thinRatio
    thresholds := s.epoch.thresholds.toList
    fallPersistence := s.epoch.fallPersistence
    epochInterval := s.epoch.epochInterval
    radioSilencePeriod := s.radio.silencePeriod
    rights := s.ports.toList.map Port.configRight
    straps := s.responder.straps }

/-- The gate of a class refuses at a level, by the table of R34. -/
def GateRefuses (g : Gate) (l : Load) : Prop :=
  (g = .strained ∧ l ≠ .normal) ∨ (g = .congested ∧ (l = .congested ∨ l = .critical)) ∨ (g = .critical ∧ l = .critical)

/-- The fields of a valid class agree with its level, by the table of R26. -/
def ServiceClass.Fits (k : ServiceClass) : Prop :=
  (k.level = .e → 100 ≤ k.waitLimit ∧ k.gate = .none ∧ k.thin = false ∧ k.preempt = true) ∧
  (k.level = .p1 → k.thin = false) ∧
  (k.level = .p2 → k.preempt = false) ∧
  (k.level = .p3 → k.waitLimit = 0 ∧ k.preempt = false)

/-! ### Invariants -/

/-- R152: an outbound queue holds up to 64 frames. -/
def State.QueuesBounded (s : State) : Prop := ∀ m, (s.port m).queue.length ≤ 64

/-- R157: the radio outbound queue holds up to 8 frames, at most one of them RADIO_HELLO. -/
def State.RadioQueueBounded (s : State) : Prop :=
  s.radio.queue.length ≤ 8 ∧ (s.radio.queue.filter fun f => !f.isOccupancy).length ≤ 1

/-- R145, R156: a receive buffer holds up to 16 frames (a fault that waits is none, log 33), and nothing once its link has
left UP and STALE. -/
def State.BuffersBounded (s : State) : Prop :=
  (∀ m, s.framesWaiting m ≤ 16 ∧ (¬s.Listens m → (s.port m).rxBuffer = [])) ∧
  s.radio.rxBuffer.length ≤ 16 ∧ (s.radio.link = .down → s.radio.rxBuffer = [])

/-- R144: the frame-fault count is 0 to 8, and below 8 while the link is UP or STALE. -/
def State.FaultsBounded (s : State) : Prop :=
  ∀ m, (s.port m).frameFaults ≤ 8 ∧
    ((s.port m).link = .up ∨ (s.port m).link = .stale → (s.port m).frameFaults < 8)

/-- R71. -/
def State.StoreBounded (s : State) : Prop := s.storeCount ≤ 160 ∧ s.priorityCount ≤ 128

/-- R60. -/
def State.TombstonesBounded (s : State) : Prop := ∀ m, (look s.table.tombstones m).length ≤ 16

/-- R145, R155, R156: only frames and faults of the link itself wait in its receive buffer. -/
def State.BuffersOwn (s : State) : Prop :=
  (∀ m, ∀ c ∈ (s.port m).rxBuffer, c.frameOn = some m ∨ c = .frameFault m) ∧ ∀ c ∈ s.radio.rxBuffer, c.isRadioFrame = true

/-- R87: the age order holds the COLLECTING cases, each once, and no other (log 9). -/
def Recall.AgeAgrees (r : Recall) : Prop := r.age.Nodup ∧ ∀ k, k ∈ r.age ↔ (look r.cases k).isSome = true

/-- The timers that run in each state of a master link (R142, R148 to R151). -/
def Port.TimersAgree (p : Port) : Prop :=
  match p.link with
  | .up => p.silence.isSome = true ∧ p.orphan = none
  | .stale => p.silence = none ∧ p.orphan.map Prod.snd = some .one
  | .orphaned => p.silence = none ∧ (p.orphan = none ∨ p.orphan.map Prod.snd = some .two)
  | .down | .suspended => p.silence = none ∧ p.orphan = none

def State.LinkTimersAgree (s : State) : Prop := ∀ m, (s.port m).TimersAgree

/-- The timer that runs in each epoch state (R127). -/
def State.EpochTimersAgree (s : State) : Prop :=
  match s.epoch.state with
  | .source | .followLost => s.epoch.intervalTimer.isSome = true ∧ s.epoch.lossTimer = none
  | .follow => s.epoch.intervalTimer = none ∧ s.epoch.lossTimer.isSome = true

/-- R45: the free queue holds the FREE entries, each once. -/
def State.FreeQueueAgrees (s : State) : Prop :=
  s.table.freeQueue.Nodup ∧ ∀ i, i ∈ s.table.freeQueue ↔ (look s.table.entries i).grant = none

end Sys2Proof.Machine

namespace Sys2Proof

/-- The commands of an epoch timer or a tick. -/
def Instr.movesEpoch : Instr → Bool
  | .epochTick _ => true
  | .intervalTimerExpiry => true
  | .lossTimerExpiry => true
  | _ => false

/-- The index a CONFIG names and the size of its table (R159). -/
def Instr.tableIndex : Instr → Option (Byte × Nat)
  | .configCarrier _ _ i .. => some (i, 12)
  | .configGroup _ _ i .. => some (i, 16)
  | .configClass _ _ i .. => some (i, 64)
  | .configMaster _ _ i .. => some (i, 4)
  | .configThresholdSet _ _ i .. => some (i, 3)
  | .configFallPersistence _ _ i _ => some (i, 1)
  | .configEpochInterval _ _ i _ => some (i, 1)
  | .configThinRatio _ _ i _ => some (i, 1)
  | .configRadioSilencePeriod _ _ i _ => some (i, 1)
  | _ => none

/-- The commands that reset or clear the part. -/
def Instr.clears : Instr → Bool
  | .powerOn _ _ => true
  | .resetPin _ _ => true
  | .clearState _ _ => true
  | .clearFull _ _ => true
  | _ => false

end Sys2Proof
end

