-- ==== Sys2Proof/Certificates/Slice0/Obligations.lean ====
section
/-! DEFINITION. The statements for the provers, in the order of OBLIGATIONS.json. A statement of what a command does has
the form `exec c s = .next t`, so that it also says that the command completes; where `t` is written by updates of `s`,
everything not named in them is left as it was. -/

open Sys2Proof Sys2Proof.Machine

/-! ### The step -/

/-- The front of the queue is served, with the rest of the queue in place. -/
def Obligations.StepServesFrontCommand : Prop :=
  ∀ (c : Instr) (rest : List Instr) (s : State), s.pending = c :: rest →
    Machine.step s = Machine.exec c { s with pending := rest }

/-- Log 2, log 10: with no command waiting the first due event of the part is served; with none due the frame at the head
of the first receive buffer that holds one on an open link leaves it and is passed inward; with no frame waiting either a
millisecond passes, unless RESET_N is low, and nothing else changes. -/
def Obligations.StepOnEmptyQueue : Prop :=
  ∀ s : State,
    (s.pending = [] →
      (∀ c, s.dueEvent = some c → Machine.step s = Machine.exec c s) ∧
      (∀ t, s.dueEvent = none → s.passWaiting = some t → Machine.step s = .next t) ∧
      (s.dueEvent = none → s.passWaiting = none → s.resetHeld = true → Machine.step s = .next s) ∧
      (s.dueEvent = none → s.passWaiting = none → s.resetHeld = false → s.epoch.timebase + 1 < 2 ^ 48 →
        Machine.step s = .next { s with epoch := { s.epoch with timebase := s.epoch.timebase + 1 } })) ∧
    (∀ m c rest, s.Listens m → (s.port m).rxBuffer = c :: rest →
      (∀ j, j < m → s.Listens j → (s.port j).rxBuffer = []) →
      s.passWaiting = some ((s.modPort m fun p => { p with rxBuffer := rest }).passInward c)) ∧
    ((∀ j, s.Listens j → (s.port j).rxBuffer = []) →
      (∀ c rest, s.radio.link ≠ .down → s.radio.rxBuffer = c :: rest →
        s.passWaiting = some ((s.modRadio fun r => { r with rxBuffer := rest }).passInward c)) ∧
      (s.radio.link = .down ∨ s.radio.rxBuffer = [] → s.passWaiting = none))

/-- R126: a deadline expires when the timebase reaches it. When the part lets a millisecond pass (log 2, log 10), no overrun
waits for its suspension, no frame waits on an open link, and every deadline of the part lies ahead. -/
def Obligations.NothingOverdueWhenTimePasses : Prop :=
  ∀ s : State, s.pending = [] → s.dueEvent = none → s.passWaiting = none →
    Machine.step s = .next s.tick ∧
    (∀ m, s.Listens m → (s.port m).rxBuffer = []) ∧
    (s.radio.link ≠ .down → s.radio.rxBuffer = []) ∧
    (∀ m, (s.port m).overrun = false) ∧
    (∀ i g d, (look s.table.entries i).grant = some g → g.phase = .held d → s.now < d) ∧
    (∀ i g cause d k, (look s.table.entries i).grant = some g → g.phase = .recalled cause d k → s.now < d) ∧
    (∀ w ∈ s.waiting.eList, s.now < w.deadline) ∧
    (∀ m, ∀ w ∈ look s.waiting.p1Lists m, s.now < w.deadline) ∧
    (∀ m, ∀ w ∈ look s.waiting.p2Lists m, s.now < w.deadline) ∧
    (∀ m d, (s.port m).link = .up → (s.port m).silence = some d → s.now < d) ∧
    (∀ m d, (s.port m).link = .stale → (s.port m).orphan = some (d, .one) → s.now < d) ∧
    (∀ m d, (s.port m).link = .orphaned → (s.port m).orphan = some (d, .two) → s.now < d) ∧
    (∀ d, s.radio.link = .up → s.radio.silence = some d → s.now < d) ∧
    (∀ d, s.epoch.state ≠ .follow → s.epoch.intervalTimer = some d → s.now < d) ∧
    (∀ d, s.epoch.state = .follow → s.epoch.lossTimer = some d → s.now < d)

/-! ### Resets and clears -/

/-- POWER_ON and RESET_PIN leave every block at its reset values, with the straps sampled; PIN_RESET_END ends the reset.
That every transmitter is idle after a reset (log 12) and that the queue of commands is kept (log 25) are the model's
choices. -/
def Obligations.PowerOnAndPinReset : Prop :=
  ∀ (cfgr : BitVec 4) (epm : Bool) (s : State),
    (∃ t, Machine.exec (.powerOn cfgr epm) s = .next t ∧ t.IsReset .powerOn ⟨cfgr, epm⟩ ∧ t.resetHeld = false ∧
      t.pending = s.pending) ∧
    (∃ t, Machine.exec (.resetPin cfgr epm) s = .next t ∧ t.IsReset .resetPin ⟨cfgr, epm⟩ ∧ t.resetHeld = true ∧
      t.pending = s.pending) ∧
    Machine.exec .pinResetEnd s = .next { s with resetHeld := false }

/-- Log 1: the state after reset is that of a power-on with every strap low; it meets every invariant stated below. -/
def Obligations.ResetStateIsPowerOn : Prop :=
  State.reset.IsReset .powerOn ⟨0, false⟩ ∧ State.reset.resetHeld = false ∧ State.reset.pending = [] ∧
  State.reset.QueuesBounded ∧ State.reset.RadioQueueBounded ∧ State.reset.BuffersBounded ∧ State.reset.BuffersOwn ∧
  State.reset.FaultsBounded ∧
  State.reset.StoreBounded ∧ State.reset.TombstonesBounded ∧ State.reset.recallUnit.AgeAgrees ∧ State.reset.LinkTimersAgree ∧
  State.reset.EpochTimersAgree ∧ State.reset.FreeQueueAgrees

/-- R166: depth FULL acts as a pin reset with the straps as last sampled and cause CLEAR_FULL, and is not answered; a
depth that is neither is answered OUT_OF_RANGE. That every transmitter is idle after it (log 12) and that the queue of
commands is kept (log 25) are the model's choices. -/
def Obligations.ClearFullIsAPinReset : Prop :=
  ∀ (m : MasterId) (tag : Half) (s : State), s.MayWrite m →
    (∃ t, Machine.exec (.clearFull m tag) s = .next t ∧ t.IsReset .clearFull s.responder.straps ∧
      t.resetHeld = false ∧ t.pending = s.pending) ∧
    ∀ depth : Byte, depth.toNat ≠ 1 → depth.toNat ≠ 2 →
      Machine.exec (.deviceClearUnknownDepth m tag depth) s =
        .next ((s.wake m).offer m (plainAnswer tag .outOfRange))

/-- R165: every overrun that awaits its suspension, those included that a suspension brings about, is served first. With
none awaiting: every block's traffic goes, everything written by CONFIG stays, each port keeps all but its receive buffer,
and the sender is answered DONE, behind which every UP link is given HELLO. That the radio link keeps its receive buffer
(log 31), that the clear is served though a suspension served first is that of the sender's link (log 32), and that faults
which wait stay (log 33), are the model's choices. -/
def Obligations.ClearStateClearsTraffic : Prop :=
  (∀ (m : MasterId) (tag : Half) (s : State), s.MayWrite m →
    let t := (s.wake m).serveSuspensions
    Machine.exec (.clearState m tag) s = .next (t.clearTraffic.offer m (plainAnswer tag .done)).helloAll ∧
    (∀ j, (t.port j).overrun = false) ∧ ∀ j, (s.port j).overrun = true → (t.port j).link = .suspended) ∧
  ∀ (m : MasterId) (tag : Half) (s : State), s.MayWrite m → (∀ j, (s.port j).overrun = false) →
    ∃ t, Machine.exec (.clearState m tag) s = .next t ∧
      (∀ c, t.carrier c = { s.carrier c with reported := none, occupancy := [], marks := [], isOver := false }) ∧
      (∀ g, t.group g = s.group g) ∧
      (∀ j, t.master j = { s.master j with quotaExcess := false }) ∧
      t.intake.classes = s.intake.classes ∧ t.intake.thinRatio = s.intake.thinRatio ∧
      (∀ j c, look (look t.intake.thinning j) c = 0) ∧
      (∀ i, (look s.table.entries i).grant = none → look t.table.entries i = look s.table.entries i) ∧
      (∀ i, (look s.table.entries i).grant.isSome = true →
        look t.table.entries i = { gen := (look s.table.entries i).gen + 1, grant := none }) ∧
      t.table.freeQueue =
        s.table.freeQueue ++ GrantTable.allIndexes.filter (fun i => (look s.table.entries i).grant.isSome) ∧
      (∀ j, look t.table.tombstones j = []) ∧
      t.engine = { p1Pointer := 0, p2Pointer := 0, due := [], retryDue := false } ∧
      t.waiting.eList = [] ∧ (∀ j, look t.waiting.p1Lists j = [] ∧ look t.waiting.p2Lists j = []) ∧
      (∀ k, t.caseAt k = none) ∧
      (∀ c, look t.recallUnit.shed c =
        { deficit := 0, holdsBroken := 0, grantsRecalled := 0, grantsAdvised := 0,
          casesRolledBack := 0 }) ∧
      t.epoch = { s.epoch with
        slips := 0, level := .normal, fallCount := 0, counters := .zero, lastEval := .cleared } ∧
      t.responder.straps = s.responder.straps ∧ t.responder.resetCause = .clearState ∧
      (∀ j, look t.responder.stats j = { admitted := 0, refused := 0, recalled := 0, revoked := 0 }) ∧
      t.radio = s.radio ∧ t.resetHeld = s.resetHeld ∧ t.pending = s.pending ∧
      (∀ j, (t.port j).unqueued = { ((s.wake m).port j).unqueued with
        rxBuffer := (s.port j).rxBuffer.filter Instr.isFrameFault }) ∧
      (∀ j, (s.port j).queue.length + 2 ≤ 64 →
        (t.port j).queue = (s.port j).queue ++ (if j = m then [plainAnswer tag .done] else []) ++
          if ((s.wake m).port j).link = .up then
            [.hello .clearState (s.port j).lastCause
              (if (s.port j).lastCause = some .afterSuspend then (s.port j).suspendReason else none)
              s.epoch.number .normal (s.port j).flags 1]
          else [])

/-! ### Configuration -/

/-- R158: a CONFIG, DEVICE_CLEAR or CLEAR_STATS from a link without the right is answered NO_RIGHT and changes no state
beyond what every frame of the link does (R143). -/
def Obligations.NoRightChangesNothing : Prop :=
  ∀ (c : Instr) (m : MasterId) (tag : Half) (s : State), WellFormed c = true → c.needsRight = some (m, tag) →
    s.Serves m → (s.port m).configRight = false →
    Machine.exec c s = .next ((s.wake m).offer m (plainAnswer tag .noRight))

/-- R159: with the right, a table code that names none, and an index outside its table, are answered OUT_OF_RANGE. -/
def Obligations.ConfigNamesNoEntry : Prop :=
  ∀ (c : Instr) (m : MasterId) (tag : Half) (s : State), WellFormed c = true → c.needsRight = some (m, tag) →
    s.MayWrite m →
    (∃ table index, c = .configUnknownTable m tag table index) ∨
      (∃ index size, c.tableIndex = some (index, size) ∧ size ≤ index.toNat) →
    Machine.exec c s = .next ((s.wake m).offer m (plainAnswer tag .outOfRange))

/-- R21: the checks of a carrier write in their order, and what an accepted write does. -/
def Obligations.CarrierWrite : Prop :=
  ∀ (m : MasterId) (tag : Half) (c : CarrierId) (index state : Byte) (nominal guard : Half) (s : State),
    s.MayWrite m → index.toNat = c.val →
    let run := Machine.exec (.configCarrier m tag index state nominal guard) s
    let outOfRange := 2 < state.toNat ∨ 1023 < nominal.toNat ∨ 255 < guard.toNat
    let conflict := nominal.toNat < guard.toNat ∨ nominal.toNat < s.occupied c ∨
      (state.toNat = 0 ∧ ((s.carrier c).occupancy ≠ [] ∨ ∃ k x, s.caseAt k = some x ∧ x.target = c))
    (outOfRange → run = .next ((s.wake m).offer m (plainAnswer tag .outOfRange))) ∧
    (¬outOfRange → conflict → run = .next ((s.wake m).offer m (plainAnswer tag .configConflict))) ∧
    (¬outOfRange → ¬conflict →
      ∀ new : CarrierState, new.code = state →
        let written := (s.wake m).modCarrier c fun k =>
          { k with state := new, nominal := nominal.toNat, guard := guard.toNat }
        let answered := written.offer m (plainAnswer tag .done)
        let gains := new = .opened ∧
          ((s.carrier c).state ≠ .opened ∨ s.room c .e < written.room c .e ∨ s.room c .p1 < written.room c .p1)
        let due := if c ∈ answered.engine.due then answered.engine.due else answered.engine.due ++ [c]
        (gains → run = .next ({ answered with engine := { answered.engine with due := due } } : State).finish) ∧
        (¬gains → run = .next answered.finish))

/-- R22: a group write. -/
def Obligations.GroupWrite : Prop :=
  ∀ (m : MasterId) (tag : Half) (g : GroupId) (index mode count : Byte) (members : List Byte) (s : State),
    s.MayWrite m → index.toNat = g.val → WellFormed (.configGroup m tag index mode count members) = true →
    let run := Machine.exec (.configGroup m tag index mode count members) s
    let refused := count.toNat = 0 ∨ 12 < count.toNat ∨ (∃ b ∈ members, 11 < b.toNat) ∨ ¬members.Nodup ∨
      (mode.toNat ≠ 1 ∧ mode.toNat ≠ 2)
    (refused → run = .next ((s.wake m).offer m (plainAnswer tag .outOfRange))) ∧
    (¬refused →
      ∃ (l : List CarrierId) (x : GroupMode), l.map (fun c => c.val) = members.map BitVec.toNat ∧ x.code = mode ∧
        run = .next
          (({ s.wake m with pool := { s.pool with groups := put s.pool.groups g ⟨l, some x⟩ } } : State).offer m
            (plainAnswer tag .done)))

/-- R26: a class write. `k` is the entry the frame's fields spell. -/
def Obligations.ClassWrite : Prop :=
  ∀ (m : MasterId) (tag : Half) (index valid level group maxUnits : Byte) (holdLimit waitLimit : Half)
    (gate thin preempt : Byte) (s : State), s.MayWrite m →
    let run := Machine.exec
      (.configClass m tag index valid level group maxUnits holdLimit waitLimit gate thin preempt) s
    let inRange := index.toNat ≤ 63 ∧ valid.toNat ≤ 1 ∧ level.toNat ≤ 3 ∧ group.toNat ≤ 15 ∧ 1 ≤ maxUnits.toNat ∧
      maxUnits.toNat ≤ 64 ∧ 100 ≤ holdLimit.toNat ∧ holdLimit.toNat ≤ 30000 ∧ waitLimit.toNat ≤ 10000 ∧
      gate.toNat ≤ 3 ∧ thin.toNat ≤ 1 ∧ preempt.toNat ≤ 1
    (¬inRange → run = .next ((s.wake m).offer m (plainAnswer tag .outOfRange))) ∧
    (inRange →
      ∃ (i : Fin 64) (k : ServiceClass), i.val = index.toNat ∧ yesNoCode k.valid = valid ∧ k.level.code = level ∧
        k.group.val = group.toNat ∧ k.maxUnits = maxUnits.toNat ∧ k.holdLimit = holdLimit.toNat ∧
        k.waitLimit = waitLimit.toNat ∧ k.gate.code = gate ∧ yesNoCode k.thin = thin ∧
        yesNoCode k.preempt = preempt ∧
        (k.valid = true ∧ ¬k.Fits → run = .next ((s.wake m).offer m (plainAnswer tag .configConflict))) ∧
        (k.valid = false ∨ k.Fits →
          run = .next
            (({ s.wake m with intake := { s.intake with classes := put s.intake.classes i k } } : State).offer m
              (plainAnswer tag .done))))

/-- R160, R23: a master write. The notice mode goes to the port of the record's master, and QUOTA_EXCESS is evaluated at
the end of the claim (R19); that a FAULT it causes stands behind the DONE is the model's reading (log 6). -/
def Obligations.MasterWrite : Prop :=
  ∀ (m j : MasterId) (tag : Half) (index : Byte) (guaranteed ceiling : Half) (pendingLimit : Byte)
    (releaseDeadline silencePeriod orphanDelay : Half) (noticeMode : Byte) (s : State),
    s.MayWrite m → index.toNat = j.val →
    let run := Machine.exec (.configMaster m tag index guaranteed ceiling pendingLimit releaseDeadline silencePeriod
      orphanDelay noticeMode) s
    let inRange := guaranteed.toNat ≤ 12276 ∧ ceiling.toNat ≤ 12276 ∧ 1 ≤ pendingLimit.toNat ∧
      pendingLimit.toNat ≤ 64 ∧ 50 ≤ releaseDeadline.toNat ∧ releaseDeadline.toNat ≤ 2000 ∧
      100 ≤ silencePeriod.toNat ∧ silencePeriod.toNat ≤ 10000 ∧ 1000 ≤ orphanDelay.toNat ∧
      orphanDelay.toNat ≤ 60000 ∧ (noticeMode.toNat = 1 ∨ noticeMode.toNat = 2)
    let others := (s.master 0).guaranteed + (s.master 1).guaranteed + (s.master 2).guaranteed +
      (s.master 3).guaranteed - (s.master j).guaranteed
    (¬inRange → run = .next ((s.wake m).offer m (plainAnswer tag .outOfRange))) ∧
    (inRange → 12276 < guaranteed.toNat + others →
      run = .next ((s.wake m).offer m (plainAnswer tag .configConflict))) ∧
    (inRange → guaranteed.toNat + others ≤ 12276 →
      ∃ n : NoticeMode, n.code = noticeMode ∧
        run = .next
          ((((s.wake m).modMaster j fun r =>
            { guaranteed := guaranteed.toNat, ceiling := ceiling.toNat, pendingLimit := pendingLimit.toNat,
              releaseDeadline := releaseDeadline.toNat, silencePeriod := silencePeriod.toNat,
              orphanDelay := orphanDelay.toNat, quotaExcess := r.quotaExcess }).modPort j fun p =>
            { p with noticeMode := n }).offer m (plainAnswer tag .done)).finish)

/-- R37, R139, R156: a threshold set write, with its range check before its order check, and the four settings of one
value, each with its range; a write changes no running timer, no count and no thinning counter. -/
def Obligations.SettingWrites : Prop :=
  ∀ (m : MasterId) (tag : Half) (s : State), s.MayWrite m →
    (∀ (i : Fin 3) (index ro rw fo fw : Byte), index.toNat = i.val →
      let run := Machine.exec (.configThresholdSet m tag index ro rw fo fw) s
      let inRange := 1 ≤ ro.toNat ∧ ro.toNat ≤ 100 ∧ 1 ≤ rw.toNat ∧ rw.toNat ≤ 128 ∧ fo.toNat ≤ 99 ∧ fw.toNat ≤ 127
      let ordered := fo.toNat < ro.toNat ∧ fw.toNat < rw.toNat
      (¬inRange → run = .next ((s.wake m).offer m (plainAnswer tag .outOfRange))) ∧
      (inRange → ¬ordered → run = .next ((s.wake m).offer m (plainAnswer tag .configConflict))) ∧
      (inRange → ordered →
        run = .next
          (((s.wake m).modEpoch fun e =>
            { e with thresholds := put e.thresholds i ⟨ro.toNat, rw.toNat, fo.toNat, fw.toNat⟩ }).offer m
            (plainAnswer tag .done)))) ∧
    (∀ v : Byte,
      (1 ≤ v.toNat ∧ v.toNat ≤ 15 → Machine.exec (.configFallPersistence m tag 0 v) s =
        .next (((s.wake m).modEpoch fun e => { e with fallPersistence := v.toNat }).offer m (plainAnswer tag .done))) ∧
      (v.toNat = 0 ∨ 15 < v.toNat → Machine.exec (.configFallPersistence m tag 0 v) s =
        .next ((s.wake m).offer m (plainAnswer tag .outOfRange)))) ∧
    (∀ v : Half,
      (100 ≤ v.toNat ∧ v.toNat ≤ 5000 → Machine.exec (.configEpochInterval m tag 0 v) s =
        .next (((s.wake m).modEpoch fun e => { e with epochInterval := v.toNat }).offer m (plainAnswer tag .done))) ∧
      (v.toNat < 100 ∨ 5000 < v.toNat → Machine.exec (.configEpochInterval m tag 0 v) s =
        .next ((s.wake m).offer m (plainAnswer tag .outOfRange)))) ∧
    (∀ v : Byte,
      (2 ≤ v.toNat ∧ v.toNat ≤ 16 → Machine.exec (.configThinRatio m tag 0 v) s =
        .next (({ s.wake m with intake := { s.intake with thinRatio := v.toNat } } : State).offer m
          (plainAnswer tag .done))) ∧
      (v.toNat < 2 ∨ 16 < v.toNat → Machine.exec (.configThinRatio m tag 0 v) s =
        .next ((s.wake m).offer m (plainAnswer tag .outOfRange)))) ∧
    (∀ v : Half,
      (200 ≤ v.toNat ∧ v.toNat ≤ 5000 → Machine.exec (.configRadioSilencePeriod m tag 0 v) s =
        .next (((s.wake m).modRadio fun r => { r with silencePeriod := v.toNat }).offer m (plainAnswer tag .done))) ∧
      (v.toNat < 200 ∨ 5000 < v.toNat → Machine.exec (.configRadioSilencePeriod m tag 0 v) s =
        .next ((s.wake m).offer m (plainAnswer tag .outOfRange))))

/-- R164: CLEAR_STATS zeroes the four counters of the master named, or of every master, and nothing else. -/
def Obligations.ClearStats : Prop :=
  ∀ (m : MasterId) (tag : Half) (s : State), s.MayWrite m →
    (∀ (j : MasterId) (target : Byte), target.toNat = j.val →
      Machine.exec (.clearStats m tag target) s =
        .next (((s.wake m).modStats j fun _ => ⟨0, 0, 0, 0⟩).offer m (plainAnswer tag .done))) ∧
    Machine.exec (.clearStats m tag 0xFF) s =
      .next (({ s.wake m with responder :=
        { s.responder with stats := Vector.replicate 4 ⟨0, 0, 0, 0⟩ } } : State).offer m (plainAnswer tag .done)) ∧
    (∀ target : Byte, 3 < target.toNat → target.toNat ≠ 0xFF →
      Machine.exec (.clearStats m tag target) s = .next ((s.wake m).offer m (plainAnswer tag .outOfRange)))

/-- R155: CLEAR_FAULT removes the named flags, but QUOTA_EXCESS only while its condition does not hold; DONE carries the
flags that remain. -/
def Obligations.ClearFault : Prop :=
  ∀ (m : MasterId) (tag : Half) (flags : Byte) (s : State), s.Serves m →
    let old := (s.port m).flags
    let left : FaultFlags :=
      { keyFault := old.keyFault && !flags.getLsbD 0
        frameFault := old.frameFault && !flags.getLsbD 1
        quotaExcess := old.quotaExcess && !(flags.getLsbD 2 && !(s.master m).quotaExcess) }
    Machine.exec (.clearFault m tag flags) s =
      .next (((s.wake m).modPort m fun p => { p with flags := left }).offer m
        (.answer tag .done none none none (some left)))

/-! ### Queries -/

/-- R161: each kind replies under the QUERY's tag with the record its index names: R1 and R123 for a carrier, R25 for a
class, R84 for kind waiting, R108 with what it withholds for a case, R140 for kind epoch. Widths, the place of tag and
handles in a case reply (log 13), the index in the replies of the kinds that ignore it (log 29) and the byte of a flag
(log 30) are the model's choices where the spec leaves them open. -/
def Obligations.QueriesReplyByKind : Prop :=
  ∀ (m : MasterId) (tag : Half) (s : State), s.Serves m →
    let w := s.wake m
    let earmark (c : CarrierId) (j : CaseId) :=
      match s.caseAt j with | some x => if x.target = c then x.earmark else 0 | none => 0
    let pendingUnits (h : Handle) :=
      match s.grantAt h with
      | some g => (match g.phase with | .recalled _ _ none => g.units | _ => 0)
      | none => 0
    let right := (s.port m).configRight
    let handleOf (v : Victim) : ReplyField :=
      match s.grantAt v.handle with
      | some g => if right = true ∨ g.owner = m then .b2 v.handle.toBits else .b2 0xFFFF
      | none => if right = true then .b2 v.handle.toBits else .b2 0xFFFF
    let counters (c : Counters) : List ReplyField :=
      [halfField c.arrivals.e, halfField c.arrivals.p1, halfField c.arrivals.p2, halfField c.arrivals.p3,
       halfField c.noCapacity.e, halfField c.noCapacity.p1, halfField c.noCapacity.p2, halfField c.noCapacity.p3,
       halfField c.casesOpened, halfField c.eQueued]
    let thresholds (i : Fin 3) : List ReplyField :=
      let x := look s.epoch.thresholds i
      [byteField x.riseOccupancy, byteField x.riseWaiting, byteField x.fallOccupancy, byteField x.fallWaiting]
    let entriesIn (p : GrantPhase → Bool) :=
      (s.table.entries.toList.filter fun e => match e.grant with | some g => p g.phase | none => false).length
    (∀ (i : Half) (c : CarrierId), i.toNat = c.val →
      let k := s.carrier c
      let r := look s.recallUnit.shed c
      Machine.exec (.queryCarrier m tag i) s = .next (w.reply m tag 1 i
        [.b1 k.state.code, halfField k.nominal, halfField k.guard,
         match k.reported with | some v => halfField v | none => .b2 0xFFFF,
         halfField k.occupancy.length,
         halfField (earmark c 0 + earmark c 1 + earmark c 2 + earmark c 3 + earmark c 4 + earmark c 5 + earmark c 6 +
           earmark c 7),
         halfField k.marks.length, flagField k.isOver, halfField (s.effective c), halfField (s.occupied c),
         halfField (k.occupancy.map pendingUnits).sum, halfField r.deficit, halfField r.holdsBroken,
         halfField r.grantsRecalled, halfField r.grantsAdvised, halfField r.casesRolledBack])) ∧
    (∀ (i : Half) (g : GroupId), i.toNat = g.val →
      let x := s.group g
      Machine.exec (.queryGroup m tag i) s = .next (w.reply m tag 2 i
        ([.b1 (if x.members = [] then 0 else 1)] ++ x.members.map (fun c => byteField c.val) ++
          [match x.mode with | some y => .b1 y.code | none => .b1 0xFF]))) ∧
    (∀ (i : Half) (c : Fin 64), i.toNat = c.val →
      let k := look s.intake.classes c
      Machine.exec (.queryClass m tag i) s = .next (w.reply m tag 3 i
        [flagField k.valid, .b1 k.level.code, byteField k.group.val, halfField k.maxUnits, halfField k.holdLimit,
         halfField k.waitLimit, .b1 k.gate.code, flagField k.thin, flagField k.preempt])) ∧
    (∀ (i : Half) (k : CaseId), i.toNat = k.val →
      (s.caseAt k = none → Machine.exec (.queryCase m tag i) s = .next (w.reply m tag 5 i [.b1 0])) ∧
      (∀ x, s.caseAt k = some x → Machine.exec (.queryCase m tag i) s = .next (w.reply m tag 5 i
        ([.b1 1, byteField x.req.owner.val, .b1 x.req.level.code, halfField x.req.units, .b1 x.req.mode.code,
          byteField x.target.val, halfField x.earmark, timeField x.openedAt, halfField x.victims.length] ++
         (x.victims.flatMap fun v => [halfField v.units, .b1 v.state.code]) ++
         [if right = true ∨ x.req.owner = m then .b2 x.req.tag else .b2 0xFFFF] ++ x.victims.map handleOf)))) ∧
    (∀ i : Half,
      let p1 (j : MasterId) := (look s.waiting.p1Lists j).length
      let p2 (j : MasterId) := (look s.waiting.p2Lists j).length
      let priority := p1 0 + p1 1 + p1 2 + p1 3 + (p2 0 + p2 1 + p2 2 + p2 3)
      Machine.exec (.queryWaiting m tag i) s = .next (w.reply m tag 4 i
        [halfField (s.waiting.eList.length + priority), halfField priority, halfField s.waiting.eList.length,
         halfField (p1 0), halfField (p2 0), halfField (p1 1), halfField (p2 1), halfField (p1 2), halfField (p2 2),
         halfField (p1 3), halfField (p2 3), byteField s.engine.p1Pointer.val, byteField s.engine.p2Pointer.val,
         halfField (s.waiting.eList.filter fun w => w.req.owner = m).length])) ∧
    (∀ i : Half,
      let e := s.epoch
      let r := e.lastEval
      Machine.exec (.queryEpoch m tag i) s = .next (w.reply m tag 6 i
        ([timeField e.timebase, byteField e.number.val, .b1 e.state.code, .b1 e.level.code, halfField e.fallCount,
          halfField e.slips, halfField e.epochInterval, byteField e.fallPersistence] ++
         (thresholds 0 ++ thresholds 1 ++ thresholds 2) ++ counters e.counters ++
         ([byteField r.number.val, timeField r.time, halfField r.occupancyPercent, halfField r.waitingDepth,
           flagField r.ePressure, .b1 r.levelBefore.code, .b1 r.levelAfter.code, halfField r.fallCount] ++
          counters r.counters)))) ∧
    (∀ i : Half, Machine.exec (.queryGrantTable m tag i) s = .next (w.reply m tag 9 i
      [halfField s.table.freeQueue.length,
       halfField (entriesIn fun p => match p with | .held _ => true | _ => false),
       halfField (entriesIn fun p => match p with | .active => true | _ => false),
       halfField (entriesIn fun p => match p with | .recalled .. => true | _ => false),
       halfField (entriesIn fun p => match p with | .revoked _ => true | _ => false),
       halfField (look s.table.tombstones 0).length, halfField (look s.table.tombstones 1).length,
       halfField (look s.table.tombstones 2).length, halfField (look s.table.tombstones 3).length])) ∧
    (∀ i : Half,
      (12 ≤ i.toNat → Machine.exec (.queryCarrier m tag i) s = .next (w.offer m (plainAnswer tag .outOfRange))) ∧
      (16 ≤ i.toNat → Machine.exec (.queryGroup m tag i) s = .next (w.offer m (plainAnswer tag .outOfRange))) ∧
      (64 ≤ i.toNat → Machine.exec (.queryClass m tag i) s = .next (w.offer m (plainAnswer tag .outOfRange))) ∧
      (8 ≤ i.toNat → Machine.exec (.queryCase m tag i) s = .next (w.offer m (plainAnswer tag .outOfRange))) ∧
      (4 ≤ i.toNat → Machine.exec (.queryMaster m tag i) s = .next (w.offer m (plainAnswer tag .outOfRange)))) ∧
    (∀ (kind : Byte) (i : Half), kind.toNat = 0 ∨ 9 < kind.toNat →
      Machine.exec (.queryUnknownKind m tag kind i) s = .next (w.offer m (plainAnswer tag .outOfRange)))

/-- R162, R43: who may read a master's record and a grant, and what the two records hold (R17 for the units, R32 for the
pending count); NOT_OWNER to a QUERY sets no fault flag. Widths are the model's choices where the spec leaves them open
(log 13), and so is the byte of a flag (log 30). -/
def Obligations.QueryOwnerCheck : Prop :=
  ∀ (m : MasterId) (tag i : Half) (s : State), s.Serves m →
    let w := s.wake m
    let right := (s.port m).configRight = true
    let units (j : MasterId) (e : Bool) :=
      (s.table.entries.toList.map fun x =>
        match x.grant with
        | some g => (match g.phase with
          | .revoked _ => 0
          | _ => if g.owner = j ∧ decide (g.level = .e) = e then g.units else 0)
        | none => 0).sum
    let pendingOf (j : MasterId) :=
      (s.waiting.eList.filter fun x => x.req.owner = j).length + (look s.waiting.p1Lists j).length +
      (look s.waiting.p2Lists j).length +
      ((List.finRange 8).filter fun k =>
        match s.caseAt k with | some x => decide (x.req.owner = j) | none => false).length
    (∀ j : MasterId, i.toNat = j.val →
      let p := s.port j
      let r := s.master j
      let t := look s.responder.stats j
      (right ∨ j = m → Machine.exec (.queryMaster m tag i) s = .next (w.reply m tag 7 i
        [.b1 (w.port j).link.code, .b1 p.noticeMode.code, .b1 p.flags.code, halfField p.frameFaults,
         flagField p.configRight, halfField (units j false), halfField (units j true), halfField r.guaranteed,
         halfField r.ceiling, flagField r.quotaExcess, halfField (pendingOf j), byteField r.pendingLimit,
         halfField r.releaseDeadline, halfField r.silencePeriod, halfField r.orphanDelay, .b4 t.admitted,
         .b4 t.refused, .b4 t.recalled, .b4 t.revoked])) ∧
      (¬right → j ≠ m → Machine.exec (.queryMaster m tag i) s = .next (w.offer m (plainAnswer tag .notOwner)))) ∧
    (s.grantAt (.ofBits i) = none → Machine.exec (.queryGrant m tag i) s =
      .next (w.offer m (.answer tag .noSuchGrant (some (.ofBits i)) none none none))) ∧
    (∀ g, s.grantAt (.ofBits i) = some g →
      let none1 : ReplyField := .b1 0xFF
      let none6 : ReplyField := .b6 (BitVec.allOnes 48)
      let record (state : Byte) (hold cause deadline case revoked : ReplyField) : List ReplyField :=
        [.b1 state, byteField g.owner.val, .b2 g.tag, byteField g.code.val, .b1 g.level.code, byteField g.carrier.val,
         halfField g.units, hold, cause, deadline, case, revoked, byteField (Handle.ofBits i).gen.val]
      (right ∨ g.owner = m → Machine.exec (.queryGrant m tag i) s = .next (w.reply m tag 8 i
        (match g.phase with
        | .held d => record 1 (timeField d) none1 none6 none1 none1
        | .active => record 2 none6 none1 none6 none1 none1
        | .recalled c d none => record 3 none6 (.b1 c.code) (timeField d) none1 none1
        | .recalled c d (some k) => record 3 none6 (.b1 c.code) (timeField d) (byteField k.val) none1
        | .revoked c => record 4 none6 none1 none6 none1 (.b1 c.code)))) ∧
      (¬right → g.owner ≠ m → Machine.exec (.queryGrant m tag i) s =
        .next (w.offer m (plainAnswer tag .notOwner))))

/-- R161: a QUERY changes no state but its sender's link timers and outbound queue, to which it adds answers. -/
def Obligations.QueriesChangeNothing : Prop :=
  ∀ (c : Instr) (m : MasterId) (tag : Half) (kind : Byte) (i : Half) (s : State),
    c.queryFields = some (m, tag, kind, i) → s.Serves m →
    ∃ (frames : List OutFrame) (o : Bool),
      Machine.exec c s =
        .next ((s.wake m).modPort m fun p => { p with queue := p.queue ++ frames, overrun := o }) ∧
      (∀ f ∈ frames, f.isAdvisory = false ∧ f.tag = tag) ∧
      ((s.port m).overrun = true → frames = [] ∧ o = true)

/-- R169: a reply is sent in parts numbered from 0, the last marked, each of whole fields and of at most 53 bytes of
them, that hold the fields in order. How full a part is made before the next begins is the model's (log 13). -/
def Obligations.ReplyParts : Prop :=
  ∀ (m : MasterId) (tag : Half) (kind : Byte) (i : Half) (fields : List ReplyField) (s : State),
    let parts := packFields 53 [] fields
    parts.flatten = fields ∧
    (∀ p ∈ parts, (p.map ReplyField.width).sum ≤ 53) ∧
    (fields ≠ [] → ∀ p ∈ parts, p ≠ []) ∧
    s.reply m tag kind i fields =
      (parts.zipIdx.map fun x => OutFrame.queryReply tag kind i x.2 (x.2 + 1 == parts.length) x.1).foldl
        (fun t f => t.offer m f) s

/-! ### Admission -/

/-- R29, checks 1 to 6, in their order, with R30: the refusal, the refused counter, and the arrival of every ADMIT that
passes check 1. What these counts are: R163, one more on the master's refused counter of 32 bits, which wraps; R30, R49,
R132, one more arrival, or NO_CAPACITY refusal, of the level in the epoch, staying at 65535; nothing else changes. -/
def Obligations.IntakeRefusals : Prop :=
  (∀ (m : MasterId) (s : State),
    let old := (look s.responder.stats m).refused
    ∃ new : BitVec 32, new.toNat = (old.toNat + 1) % 2 ^ 32 ∧
      s.countRefused m = { s with responder := { s.responder with
        stats := put s.responder.stats m { look s.responder.stats m with refused := new } } }) ∧
  (∀ (l : Level) (s : State),
    let raised (p : PerLevel) : PerLevel :=
      { e := if l = .e then min (p.e + 1) 65535 else p.e
        p1 := if l = .p1 then min (p.p1 + 1) 65535 else p.p1
        p2 := if l = .p2 then min (p.p2 + 1) 65535 else p.p2
        p3 := if l = .p3 then min (p.p3 + 1) 65535 else p.p3 }
    let c := s.epoch.counters
    s.reportArrival l = { s with epoch := { s.epoch with counters := { c with arrivals := raised c.arrivals } } } ∧
    s.reportNoCapacity l =
      { s with epoch := { s.epoch with counters := { c with noCapacity := raised c.noCapacity } } }) ∧
  ∀ (m : MasterId) (tag : Half) (code units mode : Byte) (s : State), s.Serves m →
    let run := Machine.exec (.admitRequest m tag code units mode) s
    let w := s.wake m
    (63 < code.toNat → run = .next ((w.offer m (plainAnswer tag .unmapped)).countRefused m)) ∧
    (∀ c : Fin 64, code.toNat = c.val →
      let k := look s.intake.classes c
      let r := w.reportArrival k.level
      let fits := 1 ≤ units.toNat ∧ units.toNat ≤ k.maxUnits
      let modeKnown := mode.toNat = 1 ∨ mode.toNat = 2
      let duplicate := s.WaitsUnder m tag ∨ ∃ j, s.CaseUnder m tag j
      let full := (s.master m).pendingLimit ≤ s.pendingCount m
      (k.valid = false → run = .next ((w.offer m (plainAnswer tag .unmapped)).countRefused m)) ∧
      (k.valid = true → ¬fits → run = .next ((r.offer m (plainAnswer tag .excessUnits)).countRefused m)) ∧
      (k.valid = true → fits → ¬modeKnown →
        run = .next ((r.offer m (plainAnswer tag .outOfRange)).countRefused m)) ∧
      (k.valid = true → fits → modeKnown → duplicate →
        run = .next ((r.offer m (plainAnswer tag .duplicateTag)).countRefused m)) ∧
      (k.valid = true → fits → modeKnown → ¬duplicate → full →
        run = .next ((r.offer m (plainAnswer tag .pendingLimit)).countRefused m)) ∧
      (k.valid = true → fits → modeKnown → ¬duplicate → ¬full → GateRefuses k.gate s.epoch.level →
        run = .next ((r.offer m (plainAnswer tag .gated)).countRefused m)))

/-- R29 checks 7 and 8, R35, R38: with checks 1 to 6 passed, a thinned class at CRITICAL steps its counter and is refused
unless it was 0; what passes is decided with the values copied from its class, as one claim. -/
def Obligations.PassedRequestIsDecided : Prop :=
  ∀ (m : MasterId) (tag : Half) (code units mode : Byte) (c : Fin 64) (x : AdmitMode) (s : State),
    s.Serves m → code.toNat = c.val → x.code = mode →
    let k := look s.intake.classes c
    let w := (s.wake m).reportArrival k.level
    let old := look (look s.intake.thinning m) c
    let stepped : State := { w with intake := { s.intake with
      thinning := put s.intake.thinning m (put (look s.intake.thinning m) c ((old + 1) % s.intake.thinRatio)) } }
    let r : Request :=
      { owner := m, tag := tag, code := c, level := k.level, group := k.group, units := units.toNat, mode := x,
        holdLimit := k.holdLimit, waitLimit := k.waitLimit, preempt := k.preempt }
    let run := Machine.exec (.admitRequest m tag code units mode) s
    k.valid = true → 1 ≤ units.toNat → units.toNat ≤ k.maxUnits → ¬s.WaitsUnder m tag →
    (¬∃ j, s.CaseUnder m tag j) → s.pendingCount m < (s.master m).pendingLimit →
    ¬GateRefuses k.gate s.epoch.level →
    (s.epoch.level = .critical → k.thin = true → old ≠ 0 →
      run = .next ((stepped.offer m (plainAnswer tag .thinned)).countRefused m)) ∧
    (s.epoch.level = .critical → k.thin = true → old = 0 → run = .next (stepped.decideAdmission r).finish) ∧
    (s.epoch.level ≠ .critical ∨ k.thin = false → run = .next (w.decideAdmission r).finish)

/-- R46, R49: the admission decision, step by step. -/
def Obligations.AdmissionDecisionSteps : Prop :=
  ∀ (r : Request) (s : State),
    let refused (o : AnswerCode) := (s.offer r.owner (plainAnswer r.tag o)).countRefused r.owner
    let ceilingFails := r.level ≠ .e ∧ (s.master r.owner).ceiling < s.nonEUnits r.owner + r.units
    let tableFull := s.table.freeQueue.length < (if r.level = .e then 1 else 33)
    let space := s.storeCount < 160 ∧ r.level ≠ .p3 ∧ (r.level ≠ .e → s.priorityCount < 128)
    let attempt := if r.preempt = true then s.caseAttempt r else none
    let ends (t : State) :=
      (r.waitLimit = 0 → t = (refused .noCapacity).reportNoCapacity r.level) ∧
      (0 < r.waitLimit → space → t = s.joinTail r) ∧
      (0 < r.waitLimit → ¬space → t = refused .storeFull)
    (ceilingFails → s.decideAdmission r = refused .quotaCeiling) ∧
    (¬ceilingFails → r.level ≠ .e → tableFull → s.decideAdmission r = refused .tableFull) ∧
    (¬ceilingFails → r.level = .e → tableFull → ends (s.decideAdmission r)) ∧
    (¬ceilingFails → ¬tableFull →
      (∀ c, s.chooseCarrier r.group r.level r.units = some c → s.decideAdmission r = s.createGrant r c) ∧
      (s.chooseCarrier r.group r.level r.units = none →
        (∀ t, attempt = some t → s.decideAdmission r = t) ∧
        (attempt = none → ends (s.decideAdmission r))))

/-- R73, R74: a request becomes a waiting entry at the tail of its list, or on its return from a case at the head, with its
deadline; QUEUED is offered, and an E entry is reported. That a returned request with wait limit 0 gets the present
millisecond as its deadline is the model's choice (log 26). -/
def Obligations.JoiningAList : Prop :=
  ∀ (r : Request) (s : State), r.level ≠ .p3 →
    let entry : WaitEntry := { req := r, deadline := s.now + r.waitLimit }
    ∀ (join : List WaitEntry → List WaitEntry) (u : State),
      (join = (fun l => l ++ [entry]) ∧ u = s.joinTail r) ∨ (join = (fun l => entry :: l) ∧ u = s.joinHead r) →
      ∃ t : State, u = t.offer r.owner (.queued r.tag .waiting) ∧
        (r.level = .e → t = { s with
          waiting := { s.waiting with eList := join s.waiting.eList }
          epoch := { s.epoch with
            counters := { s.epoch.counters with eQueued := min (s.epoch.counters.eQueued + 1) 65535 } } }) ∧
        (r.level = .p1 → t = { s with waiting := { s.waiting with
          p1Lists := put s.waiting.p1Lists r.owner (join (look s.waiting.p1Lists r.owner)) } }) ∧
        (r.level = .p2 → t = { s with waiting := { s.waiting with
          p2Lists := put s.waiting.p2Lists r.owner (join (look s.waiting.p2Lists r.owner)) } })

/-- R16: the carrier choice. -/
def Obligations.CarrierChoice : Prop :=
  ∀ (g : GroupId) (l : Level) (u : Nat) (s : State),
    let members := (s.group g).members
    let covers (c : CarrierId) :=
      (s.carrier c).state = .opened ∧ (s.carrier c).isOver = false ∧ u ≤ s.room c l
    ((∀ c ∈ members, ¬covers c) → s.chooseCarrier g l u = none) ∧
    ((s.group g).mode = some .firstFit → ∀ before c after, members = before ++ c :: after →
      (∀ d ∈ before, ¬covers d) → covers c → s.chooseCarrier g l u = some c) ∧
    ((s.group g).mode = some .leastLoaded → ∀ before c after, members = before ++ c :: after → covers c →
      (∀ d ∈ before, covers d → s.room d l < s.room c l) → (∀ d ∈ after, covers d → s.room d l ≤ s.room c l) →
      s.chooseCarrier g l u = some c)

/-- R3, R5, R6: the derived quantities of a carrier. -/
def Obligations.RoomOfACarrier : Prop :=
  ∀ (c : CarrierId) (s : State),
    let k := s.carrier c
    let units (h : Handle) := match s.grantAt h with | some g => g.units | none => 0
    let earmark (j : CaseId) := match s.caseAt j with | some x => if x.target = c then x.earmark else 0 | none => 0
    (k.reported = none → s.effective c = k.nominal) ∧
    (∀ v, k.reported = some v → s.effective c = min k.nominal v) ∧
    s.occupied c = (k.occupancy.map units).sum +
      (earmark 0 + earmark 1 + earmark 2 + earmark 3 + earmark 4 + earmark 5 + earmark 6 + earmark 7) ∧
    s.room c .e = s.effective c - s.occupied c ∧
    (∀ l, l ≠ .e → s.room c l = s.effective c - (s.occupied c + k.guard)) ∧
    (s.effective c < s.occupied c → ∀ l, s.room c l = 0)

/-! ### Grants -/

/-- R47: the creation of a grant in the entry at the head of the free queue. That QUOTA_EXCESS is not evaluated inside it
(the master records and the frames besides ADMITTED stay) but at the end of the claim is the model's reading (log 6). -/
def Obligations.GrantCreation : Prop :=
  ∀ (r : Request) (c : CarrierId) (i : GrantIndex) (rest : List GrantIndex) (s : State),
    s.table.freeQueue = i :: rest →
    let hold := if r.level ≠ .e ∧ s.epoch.level = .critical then r.holdLimit / 2 else r.holdLimit
    let phase : GrantPhase := if r.mode = .hold then .held (s.now + hold) else .active
    let shown : GrantState := if r.mode = .hold then .held else .active
    let h : Handle := ⟨(look s.table.entries i).gen, i⟩
    let t := s.createGrant r c
    t.table.entries = put s.table.entries i ⟨h.gen, some ⟨r.owner, r.tag, r.code, r.level, c, r.units, phase⟩⟩ ∧
    t.table.freeQueue = rest ∧ t.table.tombstones = s.table.tombstones ∧
    t.pool.carriers =
      put s.pool.carriers c { s.carrier c with occupancy := (s.carrier c).occupancy ++ [h] } ∧
    t.pool.groups = s.pool.groups ∧ t.pool.masters = s.pool.masters ∧
    t.ports = (s.offer r.owner (.answer r.tag .admitted (some h) (some c) (some shown) none)).ports ∧
    t.responder = { s.responder with
      stats := put s.responder.stats r.owner
        { look s.responder.stats r.owner with admitted := (look s.responder.stats r.owner).admitted + 1 } } ∧
    t.intake = s.intake ∧ t.engine = s.engine ∧ t.waiting = s.waiting ∧ t.recallUnit = s.recallUnit ∧
    t.epoch = s.epoch ∧ t.radio = s.radio ∧ t.resetHeld = s.resetHeld ∧ t.pending = s.pending

/-- R44: a handle is generation x 1024 + index, and matches the entry at its index when that entry is not FREE and has
its generation. -/
def Obligations.HandlesNameEntries : Prop :=
  (∀ h : Handle, h.toBits.toNat = h.gen.val * 1024 + h.index.val ∧ Handle.ofBits h.toBits = h) ∧
  (∀ w : Half, (Handle.ofBits w).toBits = w) ∧
  ∀ (h : Handle) (g : Grant) (s : State), s.grantAt h = some g ↔
    (look s.table.entries h.index).gen = h.gen ∧ (look s.table.entries h.index).grant = some g

/-- R52: COMMIT and RELEASE of a handle that does not match, or of another master's grant. -/
def Obligations.HandleAndOwnerChecks : Prop :=
  ∀ (c : Instr) (m : MasterId) (tag handle : Half) (s : State), s.Serves m →
    c = .commit m tag handle ∨ c = .release m tag handle →
    let h := Handle.ofBits handle
    let answered (o : AnswerCode) := (s.wake m).offer m (.answer tag o (some h) none none none)
    (s.grantAt h = none → Machine.exec c s = .next (answered .noSuchGrant)) ∧
    (∀ g, s.grantAt h = some g → g.owner ≠ m →
      ((s.port m).flags.keyFault = true → Machine.exec c s = .next (answered .notOwner)) ∧
      ((s.port m).flags.keyFault = false →
        let flags := { (s.port m).flags with keyFault := true }
        Machine.exec c s =
          .next (((answered .notOwner).modPort m fun p => { p with flags := flags }).offer m (.fault flags))))

/-- R53: a COMMIT from the owner, by the state of the grant. -/
def Obligations.CommitByState : Prop :=
  ∀ (m : MasterId) (tag handle : Half) (g : Grant) (s : State), s.Serves m →
    let h := Handle.ofBits handle
    let w := s.wake m
    let run := Machine.exec (.commit m tag handle) s
    s.grantAt h = some g → g.owner = m →
    (∀ d, g.phase = .held d →
      let table : GrantTable := { s.table with
        entries := put s.table.entries h.index ⟨h.gen, some { g with phase := .active }⟩ }
      run = .next (({ w with table := table } : State).offer m
        (.answer tag .committed (some h) (some g.carrier) (some .active) none))) ∧
    (g.phase = .active →
      run = .next (w.offer m (.answer tag .wrongState (some h) none (some .active) none))) ∧
    (∀ cause d k, g.phase = .recalled cause d k →
      run = .next (w.offer m (.answer tag .wrongState (some h) none (some .recalled) none))) ∧
    (∀ cause, g.phase = .revoked cause →
      run = .next (((w.freeGrant h).offer m (.answer tag .tooLate (some h) none none none)).finish))

/-- R54, R96: a RELEASE from the owner, by the state of the grant; RELEASED stands ahead of what a settle sends. -/
def Obligations.ReleaseByState : Prop :=
  ∀ (m : MasterId) (tag handle : Half) (g : Grant) (s : State), s.Serves m →
    let h := Handle.ofBits handle
    let w := s.wake m
    let freed (o : AnswerCode) := (w.freeGrant h).offer m (.answer tag o (some h) none none none)
    let run := Machine.exec (.release m tag handle) s
    s.grantAt h = some g → g.owner = m →
    ((∃ d, g.phase = .held d) ∨ g.phase = .active ∨ (∃ cause d, g.phase = .recalled cause d none) →
      run = .next (freed .released).finish) ∧
    (∀ cause d k, g.phase = .recalled cause d (some k) → run = .next ((freed .released).trySettle k).finish) ∧
    (∀ cause, g.phase = .revoked cause → run = .next (freed .tooLate).finish)

/-- R58, R13: the freeing of an entry. That QUOTA_EXCESS is not evaluated inside it (the master records stay) but at the end
of the claim is the model's reading (log 6). -/
def Obligations.FreeingAnEntry : Prop :=
  ∀ (h : Handle) (g : Grant) (s : State), s.grantAt h = some g →
    let t := s.freeGrant h
    let k := s.carrier g.carrier
    t.table.entries = put s.table.entries h.index ⟨h.gen + 1, none⟩ ∧
    t.table.freeQueue = s.table.freeQueue ++ [h.index] ∧
    t.engine = { s.engine with
      due := t.engine.due, retryDue := s.engine.retryDue || !s.waiting.eList.isEmpty } ∧
    t.ports = s.ports ∧ t.responder = s.responder ∧ t.waiting = s.waiting ∧ t.epoch = s.epoch ∧
    t.intake = s.intake ∧ t.radio = s.radio ∧ t.pool.groups = s.pool.groups ∧ t.pool.masters = s.pool.masters ∧
    t.resetHeld = s.resetHeld ∧ t.pending = s.pending ∧
    ((∃ cause, g.phase = .revoked cause) →
      t.table.tombstones = put s.table.tombstones g.owner ((look s.table.tombstones g.owner).erase h) ∧
      t.pool.carriers = s.pool.carriers ∧ t.recallUnit = s.recallUnit ∧ t.engine.due = s.engine.due) ∧
    ((∀ cause, g.phase ≠ .revoked cause) →
      t.table.tombstones = s.table.tombstones ∧
      t.pool.carriers = put s.pool.carriers g.carrier
        { k with occupancy := k.occupancy.erase h, marks := k.marks.erase h } ∧
      ((∀ cause d j, g.phase ≠ .recalled cause d (some j)) → t.recallUnit = s.recallUnit ∧
        t.engine.due = (if g.units = 0 ∨ g.carrier ∈ s.engine.due then s.engine.due
          else s.engine.due ++ [g.carrier])) ∧
      (∀ cause d j, g.phase = .recalled cause d (some j) → t.engine.due = s.engine.due ∧
        (s.caseAt j = none → t.recallUnit = s.recallUnit)) ∧
      (∀ cause d j x, g.phase = .recalled cause d (some j) → s.caseAt j = some x →
        t.recallUnit = { s.recallUnit with
          cases := put s.recallUnit.cases j (some { x with
            earmark := x.earmark + g.units
            victims := x.victims.map fun v => if v.handle = h then { v with state := .released } else v }) }))

/-- R57, R60, R13: revoking a grant, with its units going to the pool, into a case's earmark or nowhere (out of occupied
with no offer); the record of the case it was attached to then says REVOKED. With 16 tombstones of its owner the oldest is
freed first. That QUOTA_EXCESS is evaluated at the end of the claim is the model's reading (log 6). -/
def Obligations.RevokingAGrant : Prop :=
  ∀ (h : Handle) (cause : RevokeCause) (dest : UnitsTo) (g : Grant) (s : State), s.grantAt h = some g →
    let t := s.revoke h cause dest
    let revoked : Entry := ⟨h.gen, some { g with units := 0, phase := .revoked cause }⟩
    let stones := look s.table.tombstones g.owner
    let k := s.carrier g.carrier
    let due := if dest = .pool ∧ g.units ≠ 0 ∧ g.carrier ∉ s.engine.due then s.engine.due ++ [g.carrier]
      else s.engine.due
    let attached := match g.phase with | .recalled _ _ j => j | _ => none
    let taken :=
      t.ports = (s.offer g.owner (.revokedNotice h cause)).ports ∧
      t.responder = { s.responder with
        stats := put s.responder.stats g.owner
          { look s.responder.stats g.owner with revoked := (look s.responder.stats g.owner).revoked + 1 } } ∧
      t.pool = { s.pool with
        carriers := put s.pool.carriers g.carrier
          { k with occupancy := k.occupancy.erase h, marks := k.marks.erase h } } ∧
      (∀ j, t.caseAt j = (s.caseAt j).map fun x =>
        { x with
          earmark := x.earmark + if dest = .earmark j then g.units else 0
          victims := x.victims.map fun v =>
            if attached = some j ∧ v.handle = h then { v with state := .revoked } else v }) ∧
      t.recallUnit.age = s.recallUnit.age ∧ t.recallUnit.shed = s.recallUnit.shed ∧
      t.waiting = s.waiting ∧ t.epoch = s.epoch ∧ t.intake = s.intake ∧ t.radio = s.radio ∧
      t.resetHeld = s.resetHeld ∧ t.pending = s.pending
    (stones.length < 16 → taken ∧
      t.table = { s.table with
        entries := put s.table.entries h.index revoked,
        tombstones := put s.table.tombstones g.owner (stones ++ [h]) } ∧
      t.engine = { s.engine with due := due }) ∧
    (∀ oldest rest o why, stones = oldest :: rest → 15 ≤ rest.length → oldest.index ≠ h.index → oldest ∉ rest →
      s.grantAt oldest = some o → o.owner = g.owner → o.phase = .revoked why → taken ∧
      t.table = { s.table with
        entries := put (put s.table.entries h.index revoked) oldest.index ⟨oldest.gen + 1, none⟩,
        freeQueue := s.table.freeQueue ++ [oldest.index],
        tombstones := put s.table.tombstones g.owner (rest ++ [h]) } ∧
      t.engine = { s.engine with due := due, retryDue := s.engine.retryDue || !s.waiting.eList.isEmpty })

/-- R39: a CANCEL of a waiting request, of a case's request, and of none; R104: what abandoning a case does, the detaching
of its victims (R105) standing in SettlingACase. -/
def Obligations.CancelEndsThePendingRequest : Prop :=
  (∀ (k : CaseId) (x : Case) (s : State), s.caseAt k = some x →
    let t := s.detachAll k x
    let freed : State := { t with recallUnit := { s.recallUnit with
      cases := put s.recallUnit.cases k none, age := s.recallUnit.age.filter fun j => j ≠ k } }
    s.abandon k = if x.earmark = 0 ∨ x.target ∈ s.engine.due then freed
      else { freed with engine := { s.engine with due := s.engine.due ++ [x.target] } }) ∧
  ∀ (m : MasterId) (tag target : Half) (s : State), s.Serves m →
    let answered (t : State) :=
      ((t.offer m (plainAnswer target .cancelled)).countRefused m).offer m (plainAnswer tag .done)
    let run := Machine.exec (.cancel m tag target) s
    (s.WaitsUnder m target →
      run = .next (answered { s.wake m with waiting :=
        { eList := s.waiting.eList.filter fun w => !(w.req.owner == m && w.req.tag == target)
          p1Lists := put s.waiting.p1Lists m
            ((look s.waiting.p1Lists m).filter fun w => !(w.req.tag == target))
          p2Lists := put s.waiting.p2Lists m
            ((look s.waiting.p2Lists m).filter fun w => !(w.req.tag == target)) } })) ∧
    (¬s.WaitsUnder m target → ∀ k, s.CaseUnder m target k → (∀ j, s.CaseUnder m target j → j = k) →
      run = .next (answered ((s.wake m).abandon k)).finish) ∧
    (¬s.WaitsUnder m target → (∀ j, ¬s.CaseUnder m target j) →
      run = .next ((s.wake m).offer m (plainAnswer tag .noSuchRequest)))

/-- R51, R97: the expiries of holds and recalls; an expiry on a grant that has left the state, or whose deadline lies
ahead (log 3), has no effect. -/
def Obligations.HoldAndRecallExpiries : Prop :=
  ∀ (handle : Half) (s : State),
    let h := Handle.ofBits handle
    (∀ g d, s.grantAt h = some g → g.phase = .held d → d ≤ s.now →
      Machine.exec (.holdExpiry handle) s = .next (s.revoke h .holdExpired .pool).finish) ∧
    ((∀ g d, s.grantAt h = some g → g.phase = .held d → s.now < d) →
      Machine.exec (.holdExpiry handle) s = .next s) ∧
    (∀ g cause d k, s.grantAt h = some g → g.phase = .recalled cause d (some k) → d ≤ s.now →
      Machine.exec (.recallDeadlineExpiry handle) s =
        .next ((s.revoke h .deadline (.earmark k)).trySettle k).finish) ∧
    (∀ g cause d, s.grantAt h = some g → g.phase = .recalled cause d none → d ≤ s.now →
      Machine.exec (.recallDeadlineExpiry handle) s = .next (s.revoke h .deadline .pool).finish) ∧
    ((∀ g cause d k, s.grantAt h = some g → g.phase = .recalled cause d k → s.now < d) →
      Machine.exec (.recallDeadlineExpiry handle) s = .next s)

/-- R78: a wait deadline reached ends the entry with WAIT_EXPIRED; an expiry that finds no entry, or comes before its
deadline (log 3), has no effect. -/
def Obligations.WaitExpiryEndsTheEntry : Prop :=
  ∀ (m : MasterId) (tag : Half) (s : State),
    (∀ w, s.findWaiting m tag = some w → w.deadline ≤ s.now →
      Machine.exec (.waitExpiry m tag) s =
        .next (({ s with waiting :=
          { eList := s.waiting.eList.filter fun w => !(w.req.owner == m && w.req.tag == tag)
            p1Lists := put s.waiting.p1Lists m ((look s.waiting.p1Lists m).filter fun w => !(w.req.tag == tag))
            p2Lists := put s.waiting.p2Lists m
              ((look s.waiting.p2Lists m).filter fun w => !(w.req.tag == tag)) } }.offer m
          (plainAnswer tag .waitExpired)).countRefused m)) ∧
    (∀ w, s.findWaiting m tag = some w → s.now < w.deadline → Machine.exec (.waitExpiry m tag) s = .next s) ∧
    (¬s.WaitsUnder m tag → Machine.exec (.waitExpiry m tag) s = .next s) ∧
    (s.WaitsUnder m tag ↔ (s.findWaiting m tag).isSome = true)

/-! ### Preemption, offers, shedding -/

/-- R87 to R90, R94: a case attempt fails when no record is FREE or no member of the group succeeds, else it admits at once
or opens a case in the lowest-numbered FREE record. What it takes on its target: an eligible carrier, its whole room, HELD
then at most four ACTIVE grants of its occupancy list of strictly lower level than the request, none beyond the need, in
the order of R90, lowest level first, for ACTIVE grants those of masters above their guarantee first (R20), youngest
first. The plan acted on is that of the first member that succeeds, and there is none exactly when every member fails; a
member fails when all it may give falls short. -/
def Obligations.CaseAttemptChoice : Prop :=
  ∀ (r : Request) (s : State),
    let units (l : List Handle) := (l.map s.unitsAt).sum
    let ofLevel (c : CarrierId) (l : Level) (p : Grant → Bool) :=
      (s.carrier c).occupancy.reverse.filter fun h =>
        match s.grantAt h with
        | some g => decide (g.level = l) && decide (r.level.rank < l.rank) && p g
        | none => false
    let above (g : Grant) := decide ((s.master g.owner).guaranteed < s.nonEUnits g.owner)
    let holds (c : CarrierId) (l : Level) := ofLevel c l fun g => match g.phase with | .held _ => true | _ => false
    let active (c : CarrierId) (l : Level) :=
      (ofLevel c l fun g => match g.phase with | .active => above g | _ => false) ++
      ofLevel c l fun g => match g.phase with | .active => !above g | _ => false
    let holdOrder (c : CarrierId) := holds c .p3 ++ holds c .p2 ++ holds c .p1
    let activeOrder (c : CarrierId) := active c .p3 ++ active c .p2 ++ active c .p1
    ((∀ k, s.caseAt k ≠ none) → s.caseAttempt r = none) ∧
    (s.findPlan r = none → s.caseAttempt r = none) ∧
    (s.findPlan r = none ↔ ∀ c ∈ (s.group r.group).members, s.planOn r c = none) ∧
    (∀ k p, s.caseAt k = none → (∀ j, j < k → s.caseAt j ≠ none) → s.findPlan r = some p →
      s.caseAttempt r = some (if p.direct = true then s.admitDirectly r p else s.openCase k r p)) ∧
    (∀ c, s.planOn r c = none ↔
      (s.carrier c).state ≠ .opened ∨ (s.carrier c).isOver = true ∨
      s.room c r.level + units (holdOrder c) + units ((activeOrder c).take 4) < r.units) ∧
    ∀ p : Plan,
      let c := p.target
      let lower (h : Handle) (held : Bool) := h ∈ (s.carrier c).occupancy ∧ ∃ g, s.grantAt h = some g ∧
        r.level.rank < g.level.rank ∧ g.phase.isHeld = held ∧ g.phase.isActive = !held
      s.findPlan r = some p → s.planOn r c = some p ∧
      (s.carrier c).state = .opened ∧ (s.carrier c).isOver = false ∧ p.room = s.room c r.level ∧
      (∀ h ∈ p.holds, lower h true) ∧ (∀ h ∈ p.victims, lower h false) ∧ p.victims.length ≤ 4 ∧
      r.units ≤ p.room + units p.holds + units p.victims ∧
      (p.direct = true ↔ r.units ≤ p.room + units p.holds) ∧ (p.direct = true → p.victims = []) ∧
      (∀ rest last, p.holds = rest ++ [last] → p.room + units rest < r.units) ∧
      (∀ rest last, p.victims = rest ++ [last] → p.room + units p.holds + units rest < r.units) ∧
      p.holds <+: holdOrder c ∧ p.victims <+: activeOrder c ∧
      (p.victims ≠ [] → p.holds = holdOrder c) ∧
      ∃ before after, (s.group r.group).members = before ++ c :: after ∧ ∀ d ∈ before, s.planOn r d = none

/-- R93: an ACTIVE grant recalled for a case; R92: the opening of a case; R91: a direct admission, after which an offer
always falls due on the target (log 16). -/
def Obligations.RecallForACase : Prop :=
  (∀ (k : CaseId) (x : Case) (h : Handle) (g : Grant) (s : State), s.grantAt h = some g → s.caseAt k = some x →
    let t := s.recallFor k h
    let deadline := (s.master g.owner).releaseDeadline
    t.table = { s.table with
      entries := put s.table.entries h.index ⟨h.gen, some { g with
        phase := .recalled .preempt (s.now + deadline) (some k) }⟩ } ∧
    t.caseAt k = some { x with victims := x.victims ++ [⟨h, g.units, .notified⟩] } ∧
    (∀ j, j ≠ k → t.caseAt j = s.caseAt j) ∧ t.recallUnit.age = s.recallUnit.age ∧
    t.ports = (s.offer g.owner (.recallNotice h .preempt deadline)).ports ∧
    t.responder = { s.responder with
      stats := put s.responder.stats g.owner
        { look s.responder.stats g.owner with recalled := (look s.responder.stats g.owner).recalled + 1 } } ∧
    t.pool = s.pool ∧ t.engine = s.engine ∧ t.waiting = s.waiting ∧ t.epoch = s.epoch) ∧
  ∀ (k : CaseId) (r : Request) (p : Plan) (s : State),
    let filled (u : State) (openedAt : Time) : State := { u with recallUnit := { u.recallUnit with
      cases := put u.recallUnit.cases k (some
        { req := r, target := p.target, earmark := p.room, victims := [], openedAt := openedAt }) } }
    let gathered (u : State) (openedAt : Time) :=
      p.victims.foldl (fun u h => u.recallFor k h)
        (p.holds.foldl (fun u h => u.revoke h .holdBroken (.earmark k)) (filled u openedAt))
    let aged : State := { s with recallUnit := { s.recallUnit with age := s.recallUnit.age ++ [k] } }
    let told := (gathered aged s.now).offer r.owner (.queued r.tag .inCase)
    let broken := p.holds.foldl (fun u h => u.revoke h .holdBroken .nowhere) s
    let granted := broken.createGrant r p.target
    (∀ openedAt, s.gather k r openedAt p = gathered s openedAt) ∧
    s.openCase k r p = { told with epoch := { told.epoch with
      counters := { told.epoch.counters with casesOpened := min (told.epoch.counters.casesOpened + 1) 65535 } } } ∧
    s.admitDirectly r p = if p.target ∈ granted.engine.due then granted
      else { granted with engine := { granted.engine with due := granted.engine.due ++ [p.target] } }

/-- R95, R101, R102: a case whose earmark has reached its need settles, or closes without a grant when the free queue
holds no entry for its level; in both its record becomes FREE. That the request goes back to the head of its list for
whatever wait limit, 0 included, is the model's choice (log 26). R105: detaching takes the case from the grants of the
victims still NOTIFIED, which stay RECALLED with their cause and deadline, and changes nothing else. -/
def Obligations.SettlingACase : Prop :=
  ∀ (k : CaseId) (x : Case) (s : State), s.caseAt k = some x →
    let entries := if x.req.level = .e then 1 else 33
    let detached := s.detachAll k x
    let closed := (detached.freeCase k).returnUnits x.target x.earmark
    let space := s.storeCount < 160 ∧ x.req.level ≠ .p3 ∧ (x.req.level ≠ .e → s.priorityCount < 128)
    let notified (h : Handle) := ∃ v ∈ x.victims, v.handle = h ∧ v.state = .notified
    (x.earmark < x.req.units → s.trySettle k = s) ∧
    (x.req.units ≤ x.earmark → (s.trySettle k).caseAt k = none) ∧
    (x.req.units ≤ x.earmark → entries ≤ s.table.freeQueue.length →
      s.trySettle k = (((s.createGrant x.req x.target).detachAll k x).freeCase k).returnUnits x.target
        (x.earmark - x.req.units)) ∧
    (x.req.units ≤ x.earmark → s.table.freeQueue.length < entries → space → s.trySettle k = closed.joinHead x.req) ∧
    (x.req.units ≤ x.earmark → s.table.freeQueue.length < entries → ¬space →
      s.trySettle k = (closed.offer x.req.owner (plainAnswer x.req.tag .tableFull)).countRefused x.req.owner) ∧
    detached = { s with table := { s.table with entries := detached.table.entries } } ∧
    (∀ h g cause d, notified h → s.grantAt h = some g → g.phase = .recalled cause d (some k) →
      look detached.table.entries h.index = ⟨h.gen, some { g with phase := .recalled cause d none }⟩) ∧
    (∀ i, (∀ g cause d, (look s.table.entries i).grant = some g → g.phase = .recalled cause d (some k) →
        ¬notified ⟨(look s.table.entries i).gen, i⟩) →
      look detached.table.entries i = look s.table.entries i) ∧
    (∀ u : State, (u.freeCase k).recallUnit = { u.recallUnit with
        cases := put u.recallUnit.cases k none, age := u.recallUnit.age.filter fun j => j ≠ k } ∧
      u.freeCase k = { u with recallUnit := (u.freeCase k).recallUnit }) ∧
    (∀ (c : CarrierId) (n : Nat) (u : State), u.returnUnits c n =
      if n = 0 ∨ c ∈ u.engine.due then u else { u with engine := { u.engine with due := u.engine.due ++ [c] } })

/-- What follows a claim. R8, R12, R19: the claim's end brings OVER and QUOTA_EXCESS up to date (at the end of the claim,
log 6; the order of the due list, log 7). R63: the due list is served from its head until it is empty, then the table
retry if one is due (R68). R64 to R67, R75, R76, R100: stage 1 tops up the cases on the carrier oldest first, a
younger one only when every older one has been filled or settled, whatever the levels, occupied rising by the units taken
(log 27); stages 2 to 4 take entries only from the heads of the lists; a head that fits is
admitted and the rotation pointer moves behind its master; a carrier that is not OPEN, or is OVER, gives nothing. -/
def Obligations.OffersTakeFromTheHeads : Prop :=
  (∀ (c : CarrierId) (s : State),
    (s.lists c).waiting.eList <:+ s.waiting.eList ∧
    (∀ m, look (s.lists c).waiting.p1Lists m <:+ look s.waiting.p1Lists m) ∧
    (∀ m, look (s.lists c).waiting.p2Lists m <:+ look s.waiting.p2Lists m) ∧
    ((s.carrier c).state ≠ .opened ∨ (s.carrier c).isOver = true → s.lists c = s) ∧
    s.tableRetry.waiting.eList <:+ s.waiting.eList ∧
    (∀ m, look s.tableRetry.waiting.p1Lists m = look s.waiting.p1Lists m) ∧
    (∀ m, look s.tableRetry.waiting.p2Lists m = look s.waiting.p2Lists m) ∧
    s.tableRetry.engine.p1Pointer = s.engine.p1Pointer ∧ s.tableRetry.engine.p2Pointer = s.engine.p2Pointer ∧
    s.tableRetry.recallUnit = s.recallUnit) ∧
  -- R8, R12: the OVER episodes that end with the claim
  (∀ s : State,
    let ends (c : CarrierId) := (s.carrier c).isOver && decide (s.occupied c ≤ s.effective c)
    ∃ u : State, s.finish = u.evalQuota.continuation ∧
      u = { s with pool := { s.pool with carriers := u.pool.carriers }, engine := { s.engine with due := u.engine.due } } ∧
      (∀ c, u.carrier c = if ends c = true then { s.carrier c with isOver := false, marks := [] } else s.carrier c) ∧
      u.engine.due =
        (s.engine.due ++ (List.finRange 12).filter fun c => ends c && !s.engine.due.contains c).filter fun c =>
          !(u.carrier c).isOver) ∧
  -- R19: the QUOTA_EXCESS conditions
  (∀ s : State,
    let t := s.evalQuota
    let excess (m : MasterId) := (s.master m).ceiling < s.nonEUnits m
    t = { s with ports := t.ports, pool := { s.pool with masters := t.pool.masters } } ∧
    (∀ m, t.master m = { s.master m with quotaExcess := decide (excess m) }) ∧
    ∀ m,
      let flags := { (s.port m).flags with quotaExcess := true }
      let told := excess m ∧ (s.master m).quotaExcess = false ∧ (s.port m).flags.quotaExcess = false
      (told → t.port m = ((s.modPort m fun p => { p with flags := flags }).offer m (.fault flags)).port m) ∧
      (¬told → t.port m = s.port m)) ∧
  -- R63, R68: the continuation
  (∀ s : State,
    (s.engine.due = [] → s.continuation = if s.engine.retryDue = true then s.tableRetry else s) ∧
    (∀ c rest, s.engine.due = c :: rest →
      s.continuation = (({ s with engine := { s.engine with due := rest } } : State).runOffer c).continuation) ∧
    s.continuation.engine.due = [] ∧ s.continuation.engine.retryDue = false ∧
    s.tableRetry = ((List.finRange 12).foldl
      (fun u c =>
        if (u.carrier c).state = .opened ∧ (u.carrier c).isOver = false ∧ u.waiting.eList ≠ [] ∧
            u.table.freeQueue ≠ [] then
          State.stage2 c false (u.waiting.eList.length + 1) u
        else u)
      ({ s with engine := { s.engine with retryDue := false } } : State)).evalQuota) ∧
  -- R64: an offer and its stages
  (∀ (c : CarrierId) (s : State),
    let rest (u : State) : State := { u with engine := { u.engine with due := u.engine.due.filter fun d => d ≠ c } }
    ((s.carrier c).isOver = true → s.runOffer c = s) ∧
    ((s.carrier c).isOver = false → s.runOffer c = (rest ((s.stage1 c).lists c)).evalQuota) ∧
    s.stage1 c = State.topUpInTurn c (s.recallUnit.age.filter fun k =>
      match s.caseAt k with | some x => decide (x.target = c) | none => false) s ∧
    ((s.carrier c).state = .opened → (s.carrier c).isOver = false →
      let e := State.stage2 c true (s.waiting.eList.length + 1) s
      let p1 := State.rotate c .p1 (4 * e.storeCount + 5) e.engine.p1Pointer 0 e
      s.lists c = State.rotate c .p2 (4 * p1.storeCount + 5) p1.engine.p2Pointer 0 p1) ∧
    ∀ r : Request, s.fits c r = true ↔
      c ∈ (s.group r.group).members ∧ r.units ≤ s.room c r.level ∧
        (if r.level = .e then 1 else 33) ≤ s.table.freeQueue.length) ∧
  -- R64, R100, R106: stage 1 ends at the first case that stays short
  (∀ (c : CarrierId) (k : CaseId) (rest : List CaseId) (s : State),
    State.topUpInTurn c [] s = s ∧
    ((State.topUp c s k).caseAt k = none →
      State.topUpInTurn c (k :: rest) s = State.topUpInTurn c rest (State.topUp c s k)) ∧
    ((State.topUp c s k).caseAt k ≠ none → State.topUpInTurn c (k :: rest) s = State.topUp c s k)) ∧
  -- R64, R100: one case
  (∀ (c : CarrierId) (k : CaseId) (x : Case) (s : State), s.caseAt k = some x →
    (x.target ≠ c → State.topUp c s k = s) ∧
    (x.target = c →
      let units := min (x.req.units - x.earmark) (s.room c x.req.level)
      let filled : State := { s with recallUnit := { s.recallUnit with
        cases := put s.recallUnit.cases k (some { x with earmark := x.earmark + units }) } }
      State.topUp c s k = filled.trySettle k ∧ filled.occupied c = s.occupied c + units)) ∧
  -- R65, R67, R68: stage 2; the table retry makes no attempts
  (∀ (c : CarrierId) (attempts : Bool) (n : Nat) (s : State),
    (s.waiting.eList = [] → State.stage2 c attempts (n + 1) s = s) ∧
    ∀ w rest, s.waiting.eList = w :: rest →
      let popped (u : State) : State := { u with waiting := { u.waiting with eList := u.waiting.eList.tail } }
      (s.fits c w.req = true →
        State.stage2 c attempts (n + 1) s = State.stage2 c attempts n ((popped s).createGrant w.req c)) ∧
      (s.fits c w.req = false → attempts = true → s.table.freeQueue ≠ [] →
        (∀ t, s.caseAttempt w.req = some t →
          State.stage2 c attempts (n + 1) s = State.stage2 c attempts n (popped t)) ∧
        (s.caseAttempt w.req = none → State.stage2 c attempts (n + 1) s = s)) ∧
      (s.fits c w.req = false → attempts = false ∨ s.table.freeQueue = [] →
        State.stage2 c attempts (n + 1) s = s)) ∧
  -- R66, R67: the rotation of stages 3 and 4
  ∀ (c : CarrierId) (l : Level) (n passed : Nat) (m : MasterId) (s : State), l = .p1 ∨ l = .p2 →
    let list := if l = .p1 then look s.waiting.p1Lists m else look s.waiting.p2Lists m
    let served (u : State) : State :=
      if l = .p1 then
        { u with
          waiting := { u.waiting with p1Lists := put u.waiting.p1Lists m (look u.waiting.p1Lists m).tail }
          engine := { u.engine with p1Pointer := m + 1 } }
      else
        { u with
          waiting := { u.waiting with p2Lists := put u.waiting.p2Lists m (look u.waiting.p2Lists m).tail }
          engine := { u.engine with p2Pointer := m + 1 } }
    let passOver := State.rotate c l n (m + 1) (passed + 1) s
    (4 ≤ passed → State.rotate c l (n + 1) m passed s = s) ∧
    (passed < 4 → list = [] → State.rotate c l (n + 1) m passed s = passOver) ∧
    ∀ w rest, passed < 4 → list = w :: rest →
      let attempts := l = .p1 ∧ w.req.preempt = true ∧ 33 ≤ s.table.freeQueue.length
      (s.fits c w.req = true →
        State.rotate c l (n + 1) m passed s = State.rotate c l n (m + 1) 0 ((served s).createGrant w.req c)) ∧
      (s.fits c w.req = false → attempts →
        (∀ t, s.caseAttempt w.req = some t →
          State.rotate c l (n + 1) m passed s = State.rotate c l n (m + 1) 0 (served t)) ∧
        (s.caseAttempt w.req = none → State.rotate c l (n + 1) m passed s = passOver)) ∧
      (s.fits c w.req = false → ¬attempts → State.rotate c l (n + 1) m passed s = passOver)

/-- R10: a capacity report that finds no radio frame waiting, by what it does to the carrier's effective capacity. R7, R8,
R110 to R114, R120: the end of an OVER episode, its beginning with the rollback of the cases on the carrier oldest first,
the further hand-off, and what a rolled-back case does; R123: the counts of the shed record that an episode sets and a
rollback steps. That QUOTA_EXCESS is evaluated where a hand-off closes, and not inside its operations, is the model's reading
(log 6). A returned request with wait limit 0 is log 26's. -/
def Obligations.CarrierReportServed : Prop :=
  (∀ (number : Byte) (available : Half) (s : State), s.RadioServes →
    let run := Machine.exec (.carrierReport number available) s
    let w := s.wakeRadio
    (11 < number.toNat → run = .next w) ∧
    (∀ c : CarrierId, number.toNat = c.val →
      let v := if available.toNat = 65535 then 0 else min available.toNat 1023
      let t := w.modCarrier c fun k => { k with reported := some v }
      let isOver := (s.carrier c).isOver = true
      ((s.carrier c).state = .off ∨ t.effective c = s.effective c → run = .next t.finish) ∧
      ((s.carrier c).state ≠ .off → s.effective c < t.effective c → isOver → t.effective c < s.occupied c →
        run = .next t.finish) ∧
      ((s.carrier c).state ≠ .off → s.effective c < t.effective c → isOver → s.occupied c ≤ t.effective c →
        run = .next (t.endEpisode c).finish) ∧
      ((s.carrier c).state ≠ .off → s.effective c < t.effective c → ¬isOver →
        run = .next ({ t with engine := { t.engine with
          due := if c ∈ t.engine.due then t.engine.due else t.engine.due ++ [c] } } : State).finish) ∧
      ((s.carrier c).state ≠ .off → t.effective c < s.effective c → isOver →
        run = .next (t.handOffAgain c).finish) ∧
      ((s.carrier c).state ≠ .off → t.effective c < s.effective c → ¬isOver → t.effective c < s.occupied c →
        run = .next (t.beginEpisode c).finish) ∧
      ((s.carrier c).state ≠ .off → t.effective c < s.effective c → ¬isOver → s.occupied c ≤ t.effective c →
        run = .next t.finish))) ∧
  -- R7, R8, R110: the episode
  (∀ (c : CarrierId) (s : State),
    let close (t : State) :=
      if (t.carrier c).isOver = true ∧ t.occupied c ≤ t.effective c then (t.endEpisode c).evalQuota else t.evalQuota
    let begun : State := { s with
      pool := { s.pool with carriers := put s.pool.carriers c { s.carrier c with isOver := true } }
      recallUnit := { s.recallUnit with
        shed := put s.recallUnit.shed c ⟨(look s.recallUnit.shed c).deficit, 0, 0, 0, 0⟩ } }
    let cases := s.recallUnit.age.filter fun k =>
      match s.caseAt k with | some x => decide (x.target = c) | none => false
    s.endEpisode c = { s with
      pool := { s.pool with carriers := put s.pool.carriers c { s.carrier c with isOver := false, marks := [] } }
      engine := { s.engine with due := if c ∈ s.engine.due then s.engine.due else s.engine.due ++ [c] } } ∧
    s.beginEpisode c = close ((cases.foldl (State.rollback c) begun).shed c) ∧
    s.handOffAgain c = close (s.shed c)) ∧
  -- R111 to R113: a case is rolled back
  ∀ (c : CarrierId) (k : CaseId) (x : Case) (s : State), s.caseAt k = some x →
    let emptied := { x with earmark := 0, victims := [] }
    let detached := s.detachAll k x
    let t : State := { detached with recallUnit := { s.recallUnit with
      cases := put s.recallUnit.cases k (some emptied)
      shed := put s.recallUnit.shed c
        { look s.recallUnit.shed c with casesRolledBack := (look s.recallUnit.shed c).casesRolledBack + 1 } } }
    let freed := t.freeCase k
    let space := freed.storeCount < 160 ∧ x.req.level ≠ .p3 ∧ (x.req.level ≠ .e → freed.priorityCount < 128)
    let entry := (if x.req.level = .e then 1 else 33) ≤ t.table.freeQueue.length
    (∀ p, entry → t.findPlan x.req = some p → p.direct = false →
      State.rollback c s k = t.gather k x.req x.openedAt p) ∧
    (∀ p, entry → t.findPlan x.req = some p → p.direct = true →
      State.rollback c s k = freed.admitDirectly x.req p) ∧
    (¬entry ∨ t.findPlan x.req = none →
      (space → State.rollback c s k = freed.joinHead x.req) ∧
      (¬space → State.rollback c s k =
        ((freed.offer x.req.owner (plainAnswer x.req.tag .noCapacity)).countRefused x.req.owner).reportNoCapacity
          x.req.level))

/-- R110, R115 to R118, R123: a hand-off's shedding writes the deficit into the shed record; while it is above 0 it breaks
holds of levels P1 to P3, lowest level first and youngest first, then recalls ACTIVE grants, within a level those of
masters above their guarantee first (R20), then advises the level E grants that are not marked; each counts in the shed
record. It leaves the record of every level E grant that is not a tombstone as it is. -/
def Obligations.SheddingSparesEmergencies : Prop :=
  (∀ (c : CarrierId) (s : State),
    (look (s.shed c).recallUnit.shed c).deficit = s.occupied c - s.effective c - s.recallPending c ∧
    ∀ (h : Handle) (g : Grant), s.grantAt h = some g → g.level = .e → (∀ m, h ∉ look s.table.tombstones m) →
      (s.shed c).grantAt h = some g) ∧
  -- the order of the steps, and of the grants in each
  (∀ (c : CarrierId) (s : State),
    let ofLevel (l : Level) (p : Grant → Bool) := (s.carrier c).occupancy.reverse.filterMap fun h =>
      match s.grantAt h with
      | some g => if g.level = l ∧ p g = true then some (h, g) else none
      | none => none
    let above (g : Grant) := decide ((s.master g.owner).guaranteed < s.nonEUnits g.owner)
    let holds (l : Level) := ofLevel l fun g => match g.phase with | .held _ => true | _ => false
    let active (l : Level) :=
      (ofLevel l fun g => match g.phase with | .active => above g | _ => false) ++
      ofLevel l fun g => match g.phase with | .active => !above g | _ => false
    let pendingUnits (h : Handle) :=
      match s.grantAt h with
      | some g => (match g.phase with | .recalled _ _ none => g.units | _ => 0)
      | none => 0
    let deficit := s.occupied c - s.effective c - ((s.carrier c).occupancy.map pendingUnits).sum
    let begun : State := { s with recallUnit := { s.recallUnit with
      shed := put s.recallUnit.shed c { look s.recallUnit.shed c with deficit := deficit } } }
    let broken := State.shedHolds c (s.sheddableHolds c) deficit begun
    let recalled := State.shedActive c (broken.2.sheddableActive c) broken.1 broken.2
    s.sheddableHolds c = holds .p3 ++ holds .p2 ++ holds .p1 ∧
    s.sheddableActive c = active .p3 ++ active .p2 ++ active .p1 ∧
    s.shed c = if recalled.1 = 0 then recalled.2
      else (recalled.2.carrier c).occupancy.foldl (State.advise c) recalled.2) ∧
  -- one grant after another, while the deficit is above 0
  (∀ (c : CarrierId) (h : Handle) (g : Grant) (rest : List Listed) (d : Nat) (s : State),
    let broken := s.revoke h .holdBroken .nowhere
    let recalled := s.recallGrant h .shed none
    State.shedHolds c [] d s = (d, s) ∧ State.shedActive c [] d s = (d, s) ∧
    State.shedHolds c ((h, g) :: rest) 0 s = (0, s) ∧ State.shedActive c ((h, g) :: rest) 0 s = (0, s) ∧
    (0 < d → State.shedHolds c ((h, g) :: rest) d s = State.shedHolds c rest (d - g.units)
      (broken.modShed c fun r => { r with holdsBroken := r.holdsBroken + 1 })) ∧
    (0 < d → State.shedActive c ((h, g) :: rest) d s = State.shedActive c rest (d - g.units)
      (recalled.modShed c fun r => { r with grantsRecalled := r.grantsRecalled + 1 }))) ∧
  -- the recall, and the advice
  ∀ (c : CarrierId) (h : Handle) (g : Grant) (s : State), s.grantAt h = some g →
    let deadline := (s.master g.owner).releaseDeadline
    let recalled : State := { s with
      table := { s.table with
        entries := put s.table.entries h.index
          ⟨h.gen, some { g with phase := .recalled .shed (s.now + deadline) none }⟩ } }
    let told := recalled.offer g.owner (.recallNotice h .shed deadline)
    let advised := g.level = .e ∧ (g.phase = .active ∨ ∃ d, g.phase = .held d) ∧ h ∉ (s.carrier c).marks
    s.recallGrant h .shed none = { told with responder := { told.responder with
      stats := put s.responder.stats g.owner
        { look s.responder.stats g.owner with recalled := (look s.responder.stats g.owner).recalled + 1 } } } ∧
    (advised →
      let sent := s.offer g.owner (.moveAdvised h)
      State.advise c s h = { sent with
        pool := { s.pool with
          carriers := put s.pool.carriers c { s.carrier c with marks := (s.carrier c).marks ++ [h] } }
        recallUnit := { s.recallUnit with
          shed := put s.recallUnit.shed c { look s.recallUnit.shed c with
            grantsAdvised := (look s.recallUnit.shed c).grantsAdvised + 1 } } }) ∧
    (¬advised → State.advise c s h = s)

/-! ### Links -/

/-- R143, R145, R156: in DOWN, ORPHANED and SUSPENDED a valid frame other than LINK_OPEN has no effect; in DOWN a report
or a tick has none. In UP and STALE the orphan timer stops, the link is UP and the silence timer starts, which is all that
a PRESENCE does; the frame is then passed inward, or, behind what waits, joins it, and with 16 frames waiting it is
discarded and counted as RECEIVE_BUFFER_OVERFLOW is. A frame that came while an earlier one was being served does the
same; a LINK_OPEN is then taken at once, ahead of every frame that waits, so that LINK_OPENs are served in their order and
what comes behind one finds the link it opened, but it comes behind the faults that arrived before it (R155, log 33).
Faults, power and RESET_N do on arrival what their commands do. When frames come is for the part's surroundings to say,
and that a RADIO_OPEN waits in its turn without starting the timer is the model's reading (log 10). -/
def Obligations.FramesServedByLinkState : Prop :=
  (∀ (c : Instr) (m : MasterId) (s : State), WellFormed c = true → c.frameOn = some m →
    let queued := (s.wake m).modPort m fun p => { p with rxBuffer := p.rxBuffer ++ [c] }
    (¬s.Listens m → Machine.exec c s = .next s ∧ s.arrive c = s) ∧
    (s.Serves m → Machine.exec c s = .next ((s.wake m).passInward c)) ∧
    (s.Listens m → s.framesWaiting m < 16 →
      s.arrive c = queued ∧ ((s.port m).rxBuffer ≠ [] → Machine.exec c s = .next queued)) ∧
    (s.Listens m → 16 ≤ s.framesWaiting m →
      Machine.exec c s = Machine.exec (.receiveBufferOverflow m) s ∧
      Machine.exec (.receiveBufferOverflow m) s = .next (s.arrive c))) ∧
  (∀ (m : MasterId) (s : State), s.Serves m →
    Machine.exec (.presence m) s = .next { s with
      ports := put s.ports m { s.port m with
        link := .up, orphan := none, silence := some (s.epoch.timebase + (s.master m).silencePeriod) } }) ∧
  (∀ (m : MasterId) (notice keep : Byte) (s : State),
    s.framesWaiting m = ((s.port m).rxBuffer.filter fun c => !c.isFrameFault).length ∧
    Machine.exec (.linkOpen m notice keep) s = .next (s.arrive (.linkOpen m notice keep))) ∧
  (∀ (m : MasterId) (cfgr : BitVec 4) (epm : Bool) (c : Instr) (s : State),
    c = .frameFault m ∨ c = .receiveBufferOverflow m ∨ c = .radioFrameFault ∨ c = .radioReceiveBufferOverflow ∨
      c = .powerOn cfgr epm ∨ c = .resetPin cfgr epm ∨ c = .pinResetEnd →
    Machine.exec c s = .next (s.arrive c)) ∧
  (∀ (carrier number : Byte) (available : Half) (s : State), s.radio.link = .down →
    Machine.exec (.carrierReport carrier available) s = .next s ∧ Machine.exec (.epochTick number) s = .next s) ∧
  (∀ (c : Instr) (s : State), (∃ carrier available, c = .carrierReport carrier available) ∨ (∃ n, c = .epochTick n) →
    let queued := s.wakeRadio.modRadio fun r => { r with rxBuffer := r.rxBuffer ++ [c] }
    (s.radio.link = .down → s.arrive c = s) ∧
    (s.RadioServes → Machine.exec c s = .next (s.wakeRadio.passInward c)) ∧
    (s.radio.link ≠ .down → s.radio.rxBuffer.length < 16 →
      s.arrive c = queued ∧ (s.radio.rxBuffer ≠ [] → Machine.exec c s = .next queued)) ∧
    (s.radio.link ≠ .down → 16 ≤ s.radio.rxBuffer.length → Machine.exec c s = .next s ∧ s.arrive c = s)) ∧
  ∀ (tag : Half) (s : State), s.resetHeld = false →
    let queued := s.modRadio fun r => { r with rxBuffer := r.rxBuffer ++ [.radioOpen tag] }
    (s.radio.link = .down → s.arrive (.radioOpen tag) = s.passInward (.radioOpen tag)) ∧
    (s.radio.link = .down ∨ s.radio.rxBuffer = [] →
      Machine.exec (.radioOpen tag) s = .next (s.passInward (.radioOpen tag))) ∧
    (s.radio.link ≠ .down → s.radio.rxBuffer.length < 16 →
      s.arrive (.radioOpen tag) = queued ∧
      (s.radio.rxBuffer ≠ [] → Machine.exec (.radioOpen tag) s = .next queued)) ∧
    (s.radio.link ≠ .down → 16 ≤ s.radio.rxBuffer.length →
      s.arrive (.radioOpen tag) = s ∧ Machine.exec (.radioOpen tag) s = .next s)

/-- R146, R147: a LINK_OPEN in every state of the link; the port's record when the claim ends, HELLO first in its queue,
the master's pending work gone (R82, R104), its grants as R59 gives: under KEEP the RECALLED ones stay with cause and
deadline, detached only from the master's own cases, which are abandoned; one that is freed has its generation stepped,
its place on its carrier's list gone, its units where R13 sends them (R58), its entry, under KEEP, at the tail of the free
queue. The claim written out settles a case that FORGET fills at the point where the units join it (log 8, against R146's
'after the claim'), and abandons the master's cases oldest first (log 9). Faults that arrived before it and wait are
counted before it (log 33): it is served in the state they leave. A grant of another master stays, but that a case it was
recalled for may have ended. A notice mode or keep value that is neither of its two, and a LINK_OPEN while RESET_N is low
(log 11), have no effect. -/
def Obligations.LinkOpenServed : Prop :=
  ∀ (m : MasterId) (notice keep : Byte) (start : State),
    (start.resetHeld = true ∨ (notice.toNat ≠ 1 ∧ notice.toNat ≠ 2) ∨ (keep.toNat ≠ 1 ∧ keep.toNat ≠ 2) →
      Machine.exec (.linkOpen m notice keep) start = .next start) ∧
    start.serveFaults m = ((start.port m).rxBuffer.filter Instr.isFrameFault).foldl
      (fun u _ => u.passInward (.frameFault m)) start ∧
    ((∀ c ∈ (start.port m).rxBuffer, c.isFrameFault = false) → start.serveFaults m = start) ∧
    (start.resetHeld = false → start.recallUnit.AgeAgrees → ∀ mode : NoticeMode, mode.code = notice →
      keep.toNat = 1 ∨ keep.toNat = 2 →
      let s := start.serveFaults m
      let cause : LinkCause := match (s.port m).link with
        | .down => .new
        | .up | .stale => .reopen
        | .suspended => .afterSuspend
        | .orphaned => .afterOrphan
      let reason := if cause = .afterSuspend then (s.port m).suspendReason else none
      let emptied := s.modPort m fun p => { p with lastCause := some cause, rxBuffer := [], queue := [], overrun := false }
      let claimed := (emptied.dropPending m).linkClaim m (if keep.toNat = 1 then fateAtKeep else fateAtForget)
      let goes (g : Grant) : Bool := decide (g.owner = m) &&
        (decide (keep.toNat = 2) || match g.phase with | .held _ | .revoked _ => true | _ => false)
      ∃ u : State, Machine.exec (.linkOpen m notice keep) start = .next u.finish ∧
        u = { claimed with ports := u.ports } ∧ (∀ j, j ≠ m → u.port j = claimed.port j) ∧
        u.port m = { s.port m with
          link := .up, silence := some (s.now + (s.master m).silencePeriod), orphan := none, frameFaults := 0,
          rxBuffer := [], noticeMode := mode, overrun := false, lastCause := some cause,
          suspendReason := if cause = .afterSuspend then none else (s.port m).suspendReason,
          queue := [.hello s.responder.resetCause (some cause) reason s.epoch.number s.epoch.level
            (s.port m).flags 1] } ∧
        (∀ j, j ≠ m → (u.port j).unqueued = (s.port j).unqueued) ∧
        (∀ tag, ¬u.WaitsUnder m tag ∧ ∀ k, ¬u.CaseUnder m tag k) ∧
        (∀ i g, (look u.table.entries i).grant = some g → g.owner = m →
          keep.toNat = 1 ∧ (g.phase = .active ∨ ∃ c d k, g.phase = .recalled c d k)) ∧
        (∀ i g, (look s.table.entries i).grant = some g → g.owner = m → g.phase = .active → keep.toNat = 1 →
          look u.table.entries i = look s.table.entries i) ∧
        (∀ i g cause d k, (look s.table.entries i).grant = some g → g.owner = m → g.phase = .recalled cause d k →
          keep.toNat = 1 →
          look u.table.entries i = look s.table.entries i ∨
          (∃ j, k = some j ∧ (∃ tag, s.CaseUnder m tag j) ∧
            look u.table.entries i =
              ⟨(look s.table.entries i).gen, some { g with phase := .recalled cause d none }⟩)) ∧
        (start.FreeQueueAgrees →
          (∀ i g, (look s.table.entries i).grant = some g → g.owner ≠ m → s.KeptButDetached u i) ∧
          (∀ i g, (look s.table.entries i).grant = some g → goes g = true →
            (look u.table.entries i).gen = (look s.table.entries i).gen + 1 ∧ s.UnitsLeft u i g ∧
            (keep.toNat = 1 → (look u.table.entries i).grant = none)) ∧
          (keep.toNat = 1 → u.table.freeQueue = s.table.freeQueue ++ (List.finRange 1024).filter fun i =>
            match (look s.table.entries i).grant with | some g => goes g | none => false)))

/-- R148 to R150, R156: the expiries of the silence and orphan timers, and of the radio silence timer; one whose state is
gone, or whose deadline lies ahead (log 3), has no effect. What an orphan stage does is R59's: the grants it takes are
REVOKED with cause ORPHAN and 0 units, join the tombstones in index order, and their units go where R13 sends them; in stage
1 ACTIVE grants of level E and tombstones stay, in stage 2 all but those of level E, HELD or ACTIVE, stay; a tombstone goes
only when the list would pass 16 (R60). Grants of other masters stay, but that a case they were recalled for may have ended.
The outbound queue of the master keeps what stood in it (log 28), the other ports all but their queues. The claim that the
statement speaks of abandons the master's cases oldest first (log 9). -/
def Obligations.LinkTimerExpiries : Prop :=
  ∀ (m : MasterId) (s : State),
    let p := s.port m
    let handle (i : GrantIndex) : Handle := ⟨(look s.table.entries i).gen, i⟩
    let taken (p : Grant → Bool) (i : GrantIndex) : Bool :=
      match (look s.table.entries i).grant with | some g => decide (g.owner = m) && p g | none => false
    let stones := look s.table.tombstones m
    -- what becomes of the grants a stage takes
    let reclaimed (p : Grant → Bool) (u : State) :=
      let gone := (List.finRange 1024).filter (taken p)
      let stonesAfter := look u.table.tombstones m
      (∀ i g, (look s.table.entries i).grant = some g → taken p i = true →
        stones.length + gone.length ≤ 16 ∨ (handle i ∉ stones ∧ handle i ∈ stonesAfter) →
        look u.table.entries i =
          ⟨(look s.table.entries i).gen, some { g with units := 0, phase := .revoked .orphan }⟩) ∧
      (stones.length + gone.length ≤ 16 → stonesAfter = stones ++ gone.map handle ∧
        ∀ i g, (look s.table.entries i).grant = some g → taken p i = true → s.UnitsLeft u i g) ∧
      (∀ i g, (look s.table.entries i).grant = some g → g.owner = m → p g = false →
        handle i ∉ stones ∨ stones.length + gone.length ≤ 16 → look u.table.entries i = look s.table.entries i)
    let atFirst (g : Grant) : Bool := match g.phase with
      | .held _ | .recalled .. => true
      | .active => decide (g.level ≠ .e)
      | .revoked _ => false
    let atSecond (g : Grant) : Bool := match g.phase with
      | .held _ | .active => decide (g.level = .e)
      | .recalled .. | .revoked _ => false
    (∀ d, p.link = .up → p.silence = some d → d ≤ s.now →
      Machine.exec (.silenceExpiry m) s = .next (s.modPort m fun p => { p with
        link := .stale, silence := none, orphan := some (s.now + (s.master m).orphanDelay, .one) })) ∧
    (p.link ≠ .up ∨ (∀ d, p.silence = some d → s.now < d) → Machine.exec (.silenceExpiry m) s = .next s) ∧
    (∀ d, p.link = .stale → p.orphan = some (d, .one) → d ≤ s.now → s.recallUnit.AgeAgrees →
      let second := some (s.now + (s.master m).orphanDelay, OrphanStage.two)
      let lost := (s.modPort m fun p => { p with link := .orphaned, rxBuffer := [] }).dropPending m
      let u := (lost.linkClaim m fateAtStage1).modPort m fun p => { p with orphan := second }
      Machine.exec (.orphanStage1 m) s = .next u.finish ∧
      u.port m = { p with link := .orphaned, orphan := second, rxBuffer := [], queue := (u.port m).queue } ∧
      (∀ j, (s.port j).queue <+: (u.port j).queue ∧ (j ≠ m → (u.port j).unqueued = (s.port j).unqueued)) ∧
      (∀ tag, ¬u.WaitsUnder m tag ∧ ∀ k, ¬u.CaseUnder m tag k) ∧
      (∀ i g, (look u.table.entries i).grant = some g → g.owner = m →
        (∃ cause, g.phase = .revoked cause) ∨ (g.level = .e ∧ g.phase = .active)) ∧
      (s.FreeQueueAgrees → reclaimed atFirst u ∧
        ∀ i g, (look s.table.entries i).grant = some g → g.owner ≠ m → handle i ∉ stones → s.KeptButDetached u i)) ∧
    (p.link ≠ .stale ∨ (∀ d, p.orphan = some (d, .one) → s.now < d) →
      Machine.exec (.orphanStage1 m) s = .next s) ∧
    (∀ d, p.link = .orphaned → p.orphan = some (d, .two) → d ≤ s.now →
      let u := (s.linkClaim m fateAtStage2).modPort m fun p => { p with orphan := none }
      Machine.exec (.orphanStage2 m) s = .next u.finish ∧
      u.port m = { p with orphan := none, queue := (u.port m).queue } ∧ p.queue <+: (u.port m).queue ∧
      (∀ j, j ≠ m → u.port j = s.port j) ∧
      (∀ i g, (look u.table.entries i).grant = some g → g.owner = m → g.level = .e →
        g.phase ≠ .active ∧ ∀ d, g.phase ≠ .held d) ∧
      reclaimed atSecond u ∧
      ∀ i g, (look s.table.entries i).grant = some g → g.owner ≠ m → handle i ∉ stones →
        look u.table.entries i = look s.table.entries i) ∧
    (p.link ≠ .orphaned ∨ (∀ d, p.orphan = some (d, .two) → s.now < d) →
      Machine.exec (.orphanStage2 m) s = .next s) ∧
    (∀ d, s.radio.link = .up → s.radio.silence = some d → d ≤ s.now →
      Machine.exec .radioSilenceExpiry s =
        .next ({ s with radio := { s.radio with link := .stale, silence := none } }.offerAll .radioStale)) ∧
    (s.radio.link ≠ .up ∨ (∀ d, s.radio.silence = some d → s.now < d) →
      Machine.exec .radioSilenceExpiry s = .next s)

/-- R144, R145, R151, R155: a faulty frame, or one that finds the receive buffer full, is counted in UP and STALE and at
the eighth suspends the link, at once or, behind what arrived earlier on the link and waits, in its turn (log 33); an
overrun that is pending does (log 15). What a suspension leaves (R59, R151): the master's HELD grants are freed in index
order (R58: generation stepped, the entry at the tail of the free queue, the handle off its carrier's list, the units back
to the pool); every other entry, of whatever owner, is as it was, but that RECALLED grants are detached from the master's
cases, which are abandoned. How a link event ends the pending work (R82, R104) and takes the grants, in index order, each
by R59's table, is written out for all of them: the cases are abandoned oldest first (log 9), and a case that reaches its
need, under FORGET too, settles at the point where the units join it (log 8). -/
def Obligations.FaultsAndSuspension : Prop :=
  ∀ (m : MasterId) (s : State),
    (∀ c, c = .frameFault m ∨ c = .receiveBufferOverflow m →
      (¬s.Listens m → Machine.exec c s = .next s) ∧
      (s.Listens m → (s.port m).rxBuffer ≠ [] → Machine.exec c s =
        .next (s.modPort m fun p => { p with rxBuffer := p.rxBuffer ++ [.frameFault m] })) ∧
      (s.Listens m →
        let flags := { (s.port m).flags with frameFault := true }
        let counted := s.modPort m fun p => { p with frameFaults := p.frameFaults + 1, flags := flags }
        let told := if (s.port m).flags.frameFault = true then counted else counted.offer m (.fault flags)
        let served := if (s.port m).frameFaults + 1 < 8 then told else told.suspend m .frameFaults
        s.passInward (.frameFault m) = served ∧
        ((s.port m).rxBuffer = [] → Machine.exec c s = .next served))) ∧
    ((s.port m).overrun = true → Machine.exec (.suspension m) s = .next (s.suspend m .outboundOverrun)) ∧
    ((s.port m).overrun = false → Machine.exec (.suspension m) s = .next s) ∧
    (∀ reason, s.recallUnit.AgeAgrees →
      let lost := s.modPort m fun p => { p with
        link := .suspended, suspendReason := some reason, silence := none, orphan := none, rxBuffer := [], queue := [],
        overrun := false }
      let u := (lost.dropPending m).linkClaim m fateAtSuspension
      let handle (i : GrantIndex) : Handle := ⟨(look s.table.entries i).gen, i⟩
      let held (i : GrantIndex) : Bool :=
        match (look s.table.entries i).grant with
        | some g => decide (g.owner = m) && match g.phase with | .held _ => true | _ => false
        | none => false
      let freed := (List.finRange 1024).filter held
      let freedOn (c : CarrierId) := freed.filter fun i =>
        match (look s.table.entries i).grant with | some g => decide (g.carrier = c) | none => false
      s.suspend m reason = u.finish ∧
        u.port m = { s.port m with
          link := .suspended, suspendReason := some reason, silence := none, orphan := none, rxBuffer := [],
          queue := [], overrun := false } ∧
        (∀ j, j ≠ m → u.port j = s.port j) ∧
        (∀ tag, ¬u.WaitsUnder m tag ∧ ∀ k, ¬u.CaseUnder m tag k) ∧
        (∀ i g, (look u.table.entries i).grant = some g → g.owner = m → ∀ d, g.phase ≠ .held d) ∧
        (∀ i, held i = true → look u.table.entries i = ⟨(look s.table.entries i).gen + 1, none⟩) ∧
        (∀ i g, (look s.table.entries i).grant = some g → held i = true → s.UnitsLeft u i g) ∧
        u.table.freeQueue = s.table.freeQueue ++ freed ∧ u.table.tombstones = s.table.tombstones ∧
        (∀ c, (u.carrier c).occupancy = (s.carrier c).occupancy.diff ((freedOn c).map handle)) ∧
        (∀ i, held i = false → (∀ g cause d k, (look s.table.entries i).grant = some g → g.phase ≠ .recalled cause d k) →
          look u.table.entries i = look s.table.entries i) ∧
        (∀ i g cause d k, (look s.table.entries i).grant = some g → g.phase = .recalled cause d k →
          look u.table.entries i = look s.table.entries i ∨
          (∃ j, k = some j ∧ (∃ tag, s.CaseUnder m tag j) ∧
            look u.table.entries i =
              ⟨(look s.table.entries i).gen, some { g with phase := .recalled cause d none }⟩))) ∧
    -- R82, R104: the pending work of the master ends
    s.dropPending m = (s.recallUnit.age.filter fun k =>
      match s.caseAt k with | some x => decide (x.req.owner = m) | none => false).foldl State.abandon
        { s with waiting :=
          { eList := s.waiting.eList.filter fun w => w.req.owner ≠ m
            p1Lists := put s.waiting.p1Lists m [], p2Lists := put s.waiting.p2Lists m [] } } ∧
    -- R59: the grants of the master, in index order
    (∀ fate : Grant → GrantFate, s.linkClaim m fate = ((List.finRange 1024).filter fun i =>
        match (look s.table.entries i).grant with | some g => decide (g.owner = m) | none => false).foldl
      (fun t i =>
        let h : Handle := ⟨(look t.table.entries i).gen, i⟩
        match (look t.table.entries i).grant with
        | none => t
        | some g =>
          let attached := match g.phase with | .recalled _ _ k => k | _ => none
          let settled (t : State) := match attached with | some k => t.trySettle k | none => t
          let dest : UnitsTo := match attached with | some k => .earmark k | none => .pool
          if g.owner ≠ m then t
          else match fate g with
            | .kept => t
            | .freed => settled (t.freeGrant h)
            | .revokedOrphan => settled (t.revoke h .orphan dest)) s) ∧
    ∀ g : Grant,
      let fates := (fateAtSuspension g, fateAtKeep g, fateAtForget g, fateAtStage1 g, fateAtStage2 g)
      ((∃ d, g.phase = .held d) → fates =
        (.freed, .freed, .freed, .revokedOrphan, if g.level = .e then .revokedOrphan else .kept)) ∧
      (g.phase = .active → fates =
        if g.level = .e then (.kept, .kept, .freed, .kept, .revokedOrphan)
        else (.kept, .kept, .freed, .revokedOrphan, .kept)) ∧
      ((∃ cause d k, g.phase = .recalled cause d k) → fates = (.kept, .kept, .freed, .revokedOrphan, .kept)) ∧
      ((∃ cause, g.phase = .revoked cause) → fates = (.kept, .freed, .freed, .kept, .kept))

/-- R152, R153, R157: what becomes of a frame offered to an outbound queue. R138, R154, R156: a notice for all masters is
offered once to each of the four ports, and nothing else changes. -/
def Obligations.OffersToOutboundQueues : Prop :=
  (∀ (m : MasterId) (f : OutFrame) (s : State),
    let p := s.port m
    let joins := s.modPort m fun p => { p with queue := p.queue ++ [f] }
    (p.overrun = true ∨ p.link = .down ∨ p.link = .suspended → s.offer m f = s) ∧
    (p.overrun = false → p.link = .up ∨ p.link = .stale ∨ p.link = .orphaned → f.isAdvisory = true →
      s.offer m f = if p.noticeMode = .full ∧ p.queue.length < 48 then joins else s) ∧
    (p.overrun = false → p.link = .orphaned → f.isAdvisory = false →
      s.offer m f = if p.queue.length < 64 then joins else s) ∧
    (p.overrun = false → p.link = .up ∨ p.link = .stale → f.isAdvisory = false →
      s.offer m f = if p.queue.length < 64 then joins else s.modPort m fun p => { p with overrun := true })) ∧
  (∀ (f : OutFrame) (s : State),
    s.offerAll f = (((s.offer 0 f).offer 1 f).offer 2 f).offer 3 f ∧
    (∀ m, (s.offerAll f).port m = (s.offer m f).port m) ∧ s.offerAll f = { s with ports := (s.offerAll f).ports }) ∧
  ∀ (epoch : Fin 64) (values : List (Nat × Nat)) (s : State),
    let f := RadioFrame.occupancy epoch values
    (s.radio.link = .down → s.offerOccupancy f = s) ∧
    (s.radio.link ≠ .down → s.radio.queue.length < 8 →
      s.offerOccupancy f = s.modRadio fun r => { r with queue := r.queue ++ [f] }) ∧
    (s.radio.link ≠ .down → 8 ≤ s.radio.queue.length → ∀ before n v after,
      s.radio.queue = before ++ .occupancy n v :: after → (∀ x ∈ before, x.isOccupancy = false) →
      s.offerOccupancy f = s.modRadio fun r => { r with queue := before ++ after ++ [f] })

/-- R152, R156, R157: the transmitters, RADIO_OPEN, and the faults of radio frames. That a RADIO_OPEN while RESET_N is low
has no effect (log 11) and that the radio transmitter takes the head at every RADIO_OUTBOUND_SEND (log 12) are the model's
choices. -/
def Obligations.TransmittersAndRadio : Prop :=
  ∀ (m : MasterId) (tag : Half) (s : State),
    (∀ f rest, (s.port m).sending = none → (s.port m).queue = f :: rest →
      Machine.exec (.outboundSend m) s = .next (s.modPort m fun p => { p with sending := some f, queue := rest })) ∧
    ((s.port m).sending ≠ none ∨ (s.port m).queue = [] → Machine.exec (.outboundSend m) s = .next s) ∧
    Machine.exec (.outboundFrameSent m) s = .next (s.modPort m fun p => { p with sending := none }) ∧
    Machine.exec .radioOutboundSend s = .next (s.modRadio fun r => { r with queue := r.queue.drop 1 }) ∧
    (s.resetHeld = false → s.radio.link = .down ∨ s.radio.rxBuffer = [] →
      Machine.exec (.radioOpen tag) s = .next { s with radio := { s.radio with
      link := .up, silence := some (s.now + s.radio.silencePeriod),
      queue := [.radioHello tag s.responder.resetCause s.epoch.number] } }) ∧
    (s.resetHeld = true → Machine.exec (.radioOpen tag) s = .next s) ∧
    Machine.exec .radioFrameFault s = .next s ∧ Machine.exec .radioReceiveBufferOverflow s = .next s

/-! ### Epochs -/

/-- R128 to R131: what makes a boundary, a slip and a resync. That an expiry is due at or below the timebase, and that one
before its deadline has no effect, is the model's reading (log 3). -/
def Obligations.TicksAndEpochTimers : Prop :=
  ∀ (number : Byte) (s : State),
    let now := s.epoch.timebase
    let interval := s.epoch.epochInterval
    (s.RadioServes →
      let w : State := { s with radio := { s.radio with link := .up, silence := some (now + s.radio.silencePeriod) } }
      let run := Machine.exec (.epochTick number) s
      ∀ n : Fin 64, n.val = number.toNat % 64 →
        (s.epoch.state = .source → run = .next w) ∧
        (s.epoch.state = .follow → n = s.epoch.number + 1 →
          run = .next (w.modEpoch fun e => { e with lossTimer := some (now + 3 * interval) }).boundary) ∧
        (s.epoch.state = .follow → n ≠ s.epoch.number + 1 →
          run = .next ((w.modEpoch fun e => { e with
            number := n, slips := min (e.slips + 1) 65535, lossTimer := some (now + 3 * interval) }).offerAll
            (.epoch n s.epoch.level .slip))) ∧
        (s.epoch.state = .followLost →
          run = .next ((w.modEpoch fun e => { e with
            number := n, state := .follow, intervalTimer := none,
            lossTimer := some (now + 3 * interval) }).offerAll (.epoch n s.epoch.level .resync)))) ∧
    (∀ d, s.epoch.state ≠ .follow → s.epoch.intervalTimer = some d → d ≤ now →
      Machine.exec .intervalTimerExpiry s =
        .next (s.modEpoch fun e => { e with intervalTimer := some (now + interval) }).boundary) ∧
    (s.epoch.state = .follow ∨ (∀ d, s.epoch.intervalTimer = some d → now < d) →
      Machine.exec .intervalTimerExpiry s = .next s) ∧
    (∀ d, s.epoch.state = .follow → s.epoch.lossTimer = some d → d ≤ now →
      Machine.exec .lossTimerExpiry s =
        .next (s.modEpoch fun e => { e with
          state := .followLost, lossTimer := none, intervalTimer := some (now + interval) }).boundary) ∧
    (s.epoch.state ≠ .follow ∨ (∀ d, s.epoch.lossTimer = some d → now < d) →
      Machine.exec .lossTimerExpiry s = .next s)

/-- R133, R136, R138, R140: the five stages of a boundary, and what it leaves alone. -/
def Obligations.BoundaryStages : Prop :=
  ∀ s : State,
    let t := s.boundary
    let v := s.evaluate
    let next := s.epoch.evaluated v
    let number := s.epoch.number + 1
    let noticed := (if next.1 = s.epoch.level then s else s.offerAll (.level s.epoch.level next.1)).offerAll
      (.epoch number next.1 .none)
    let values := (List.finRange 12).map fun c => (s.occupied c, s.effective c)
    t.epoch = { s.epoch with
      number := number, level := next.1, fallCount := next.2,
      counters := ⟨⟨0, 0, 0, 0⟩, ⟨0, 0, 0, 0⟩, 0, 0⟩,
      lastEval :=
        { number := number, time := s.epoch.timebase, occupancyPercent := v.occupancyPercent,
          waitingDepth := v.waitingDepth, ePressure := v.ePressure, levelBefore := s.epoch.level,
          levelAfter := next.1, fallCount := next.2, counters := s.epoch.counters } } ∧
    (∀ m, t.port m = { noticed.port m with frameFaults := 0 }) ∧
    t.radio = (s.offerOccupancy (.occupancy number values)).radio ∧
    t.intake.classes = s.intake.classes ∧ t.intake.thinRatio = s.intake.thinRatio ∧
    (∀ m c, look (look t.intake.thinning m) c =
      if next.1 = .critical ∧ s.epoch.level ≠ .critical then 0 else look (look s.intake.thinning m) c) ∧
    t.pool = s.pool ∧ t.table = s.table ∧ t.engine = s.engine ∧ t.waiting = s.waiting ∧
    t.recallUnit = s.recallUnit ∧ t.responder = s.responder ∧ t.resetHeld = s.resetHeld ∧ t.pending = s.pending

/-- R134, R135: the values of an evaluation, and the rise and the fall of the level. -/
def Obligations.EvaluationRiseAndFall : Prop :=
  (∀ s : State,
    let total (f : CarrierId → Nat) :=
      ((List.finRange 12).map fun c => if (s.carrier c).state = .off then 0 else f c).sum
    s.evaluate.occupancyPercent =
      (if total s.effective = 0 then 100 else 100 * total s.occupied / total s.effective) ∧
    s.evaluate.waitingDepth = s.priorityCount ∧
    (s.evaluate.ePressure = true ↔
      0 < s.epoch.counters.casesOpened ∨ 0 < s.epoch.counters.eQueued ∨ 0 < s.epoch.counters.noCapacity.e)) ∧
  ∀ (e : EpochUnit) (v : Evaluation),
    let rises (i : Fin 3) := (look e.thresholds i).riseOccupancy ≤ v.occupancyPercent ∨
      (look e.thresholds i).riseWaiting ≤ v.waitingDepth ∨
      (v.ePressure = true ∧ (e.level = .normal ∨ e.level = .strained))
    let calm (i : Fin 3) := v.occupancyPercent < (look e.thresholds i).fallOccupancy ∧
      v.waitingDepth < (look e.thresholds i).fallWaiting ∧ v.ePressure = false
    let up : List (Load × Load × Fin 3) := [(.normal, .strained, 0), (.strained, .congested, 1), (.congested, .critical, 2)]
    (∀ x ∈ up, e.level = x.1 → rises x.2.2 → e.evaluated v = (x.2.1, 0)) ∧
    (e.level = .normal → ¬rises 0 → e.evaluated v = (.normal, 0)) ∧
    (∀ x ∈ up, e.level = x.2.1 → (∀ y ∈ up, e.level = y.1 → ¬rises y.2.2) →
      (¬calm x.2.2 → e.evaluated v = (e.level, 0)) ∧
      (calm x.2.2 → e.fallPersistence ≤ e.fallCount + 1 → e.evaluated v = (x.1, 0)) ∧
      (calm x.2.2 → e.fallCount + 1 < e.fallPersistence → e.evaluated v = (e.level, e.fallCount + 1)))

/-! ### Frames -/

/-- R167, R168, R171, R172: the bytes of the frames the part sends; R173 to R175: the codes of their fields and of those it
receives; the widths, the bytes, most significant first, and the absent values of reply fields (R168, R171; a flag's byte is
log 30's, the hold at 65535 log 13's). -/
def Obligations.SentFrameLayouts : Prop :=
  ([AnswerCode.admitted, .committed, .released, .done].map AnswerCode.code = [0x00, 0x01, 0x02, 0x03] ∧
    [AnswerCode.unmapped, .excessUnits, .duplicateTag, .pendingLimit, .gated, .thinned, .quotaCeiling, .tableFull,
      .noCapacity, .storeFull, .waitExpired, .cancelled, .noSuchRequest, .noSuchGrant, .notOwner, .wrongState, .tooLate,
      .noRight, .configConflict, .outOfRange].map AnswerCode.code =
      [0x10, 0x11, 0x12, 0x13, 0x14, 0x15, 0x16, 0x17, 0x18, 0x19, 0x1A, 0x1B, 0x1C, 0x1D, 0x1E, 0x1F, 0x20, 0x21, 0x22,
       0x23]) ∧
  ([ResetCause.powerOn, .resetPin, .clearState, .clearFull].map ResetCause.code = [1, 2, 3, 4] ∧
    [LinkCause.new, .reopen, .afterSuspend, .afterOrphan].map (fun c => linkCauseCode (some c)) = [1, 2, 3, 4] ∧
    [none, some SuspendReason.frameFaults, some .outboundOverrun].map suspendReasonCode = [0, 1, 2] ∧
    [RecallCause.preempt, .shed].map RecallCause.code = [1, 2] ∧
    [RevokeCause.deadline, .holdExpired, .holdBroken, .orphan].map RevokeCause.code = [1, 2, 3, 4] ∧
    [GrantState.free, .held, .active, .recalled, .revoked].map GrantState.code = [0, 1, 2, 3, 4] ∧
    [Place.waiting, .inCase].map Place.code = [1, 2] ∧
    [EpochMarker.none, .slip, .resync].map EpochMarker.code = [0, 1, 2] ∧
    [VictimState.notified, .released, .revoked].map VictimState.code = [1, 2, 3] ∧
    [LinkState.down, .up, .stale, .orphaned, .suspended].map LinkState.code = [0, 1, 2, 3, 4] ∧
    [EpochState.source, .follow, .followLost].map EpochState.code = [0, 1, 2]) ∧
  ([Level.e, .p1, .p2, .p3].map Level.code = [0, 1, 2, 3] ∧
    [Load.normal, .strained, .congested, .critical].map Load.code = [0, 1, 2, 3] ∧
    [Gate.none, .strained, .congested, .critical].map Gate.code = [0, 1, 2, 3] ∧
    [AdmitMode.hold, .direct].map AdmitMode.code = [1, 2] ∧
    [NoticeMode.full, .quiet].map NoticeMode.code = [1, 2] ∧
    [CarrierState.off, .opened, .draining].map CarrierState.code = [0, 1, 2] ∧
    [GroupMode.firstFit, .leastLoaded].map GroupMode.code = [1, 2] ∧
    [false, true].map yesNoCode = [0, 1] ∧
    (KeepChoice.ofCode 1 = some .keep ∧ KeepChoice.ofCode 2 = some .forget ∧
      ∀ b : Byte, b.toNat ≠ 1 → b.toNat ≠ 2 → KeepChoice.ofCode b = none) ∧
    (∀ (b : Byte),
      (∀ x, Level.ofCode b = some x ↔ x.code = b) ∧ (∀ x, Gate.ofCode b = some x ↔ x.code = b) ∧
      (∀ x, AdmitMode.ofCode b = some x ↔ x.code = b) ∧ (∀ x, NoticeMode.ofCode b = some x ↔ x.code = b) ∧
      (∀ x, CarrierState.ofCode b = some x ↔ x.code = b) ∧ (∀ x, GroupMode.ofCode b = some x ↔ x.code = b) ∧
      (∀ x, yesNo b = some x ↔ yesNoCode x = b) ∧
      FaultFlags.ofBits b = ⟨b.getLsbD 0, b.getLsbD 1, b.getLsbD 2⟩) ∧
    ∀ k f q : Bool, (⟨k, f, q⟩ : FaultFlags).code =
      BitVec.ofNat 8 ((if k = true then 1 else 0) + (if f = true then 2 else 0) + (if q = true then 4 else 0))) ∧
  (∀ n : Nat, byteField n = .b1 (BitVec.ofNat 8 n) ∧ timeField n = .b6 (BitVec.ofNat 48 n) ∧
    halfField n = .b2 (BitVec.ofNat 16 (if n ≤ 65535 then n else 65535))) ∧
  (∀ b : Bool, flagField b = .b1 (if b = true then 1 else 0)) ∧
  ((∀ v : BitVec 8, (ReplyField.b1 v).bytes = [v]) ∧
    (∀ v : BitVec 16, (ReplyField.b2 v).bytes = [v.extractLsb' 8 8, v.extractLsb' 0 8]) ∧
    (∀ v : BitVec 32, (ReplyField.b4 v).bytes =
      [v.extractLsb' 24 8, v.extractLsb' 16 8, v.extractLsb' 8 8, v.extractLsb' 0 8]) ∧
    (∀ v : BitVec 48, (ReplyField.b6 v).bytes =
      [v.extractLsb' 40 8, v.extractLsb' 32 8, v.extractLsb' 24 8, v.extractLsb' 16 8, v.extractLsb' 8 8,
       v.extractLsb' 0 8]) ∧
    ∀ f : ReplyField, f.bytes.length = f.width) ∧
  (∀ b : List Byte, framed b =
    [0xD3, BitVec.ofNat 8 b.length] ++ b ++
      [(crc (BitVec.ofNat 8 b.length :: b)).extractLsb' 8 8, (crc (BitVec.ofNat 8 b.length :: b)).extractLsb' 0 8]) ∧
  crc [0x31, 0x32, 0x33, 0x34, 0x35, 0x36, 0x37, 0x38, 0x39] = 0x29B1 ∧
  ∀ (h : Handle) (tag : Half) (n : Fin 64) (l l' : Load) (fl : FaultFlags),
    let hi (v : Half) : Byte := v.extractLsb' 8 8
    let lo (v : Half) : Byte := v.extractLsb' 0 8
    (∀ rc lc sr, (OutFrame.hello rc (some lc) sr n l fl 1).bytes =
      framed [0x80, 0, 0, rc.code, linkCauseCode (some lc), suspendReasonCode sr, BitVec.ofNat 8 n.val, l.code,
        fl.code, 1]) ∧
    (∀ (o : AnswerCode) (c : CarrierId) (st : GrantState), (OutFrame.answer tag o (some h) (some c) (some st) none).bytes =
      framed [0x81, hi tag, lo tag, o.code, 7, hi h.toBits, lo h.toBits, BitVec.ofNat 8 c.val, st.code, 0]) ∧
    (∀ o : AnswerCode, (OutFrame.answer tag o (some h) none none none).bytes =
      framed [0x81, hi tag, lo tag, o.code, 1, hi h.toBits, lo h.toBits, 0, 0, 0]) ∧
    (∀ o : AnswerCode, (plainAnswer tag o).bytes = framed [0x81, hi tag, lo tag, o.code, 0, 0, 0, 0, 0, 0]) ∧
    (∀ st : GrantState, (OutFrame.answer tag .wrongState (some h) none (some st) none).bytes =
      framed [0x81, hi tag, lo tag, 0x1F, 5, hi h.toBits, lo h.toBits, 0, st.code, 0]) ∧
    (OutFrame.answer tag .done none none none (some fl)).bytes =
      framed [0x81, hi tag, lo tag, 0x03, 8, 0, 0, 0, 0, fl.code] ∧
    (∀ (kind : Byte) (i : Half) (part : Nat) (last : Bool) (fields : List ReplyField), part < 128 →
      (OutFrame.queryReply tag kind i part last fields).bytes =
        framed ([0x82, hi tag, lo tag, kind, hi i, lo i,
          BitVec.ofNat 8 (part + if last = true then 128 else 0)] ++ fields.flatMap ReplyField.bytes)) ∧
    (∀ (c : RecallCause) (d : Nat), d < 65536 → (OutFrame.recallNotice h c d).bytes =
      framed [0x90, 0, 0, hi h.toBits, lo h.toBits, c.code, hi (BitVec.ofNat 16 d), lo (BitVec.ofNat 16 d)]) ∧
    (∀ c : RevokeCause, (OutFrame.revokedNotice h c).bytes =
      framed [0x91, 0, 0, hi h.toBits, lo h.toBits, c.code]) ∧
    (OutFrame.moveAdvised h).bytes = framed [0x92, 0, 0, hi h.toBits, lo h.toBits] ∧
    (OutFrame.fault fl).bytes = framed [0x93, 0, 0, fl.code] ∧
    (∀ p : Place, (OutFrame.queued tag p).bytes = framed [0xA0, hi tag, lo tag, p.code]) ∧
    (∀ k : EpochMarker, (OutFrame.epoch n l k).bytes = framed [0xA1, 0, 0, BitVec.ofNat 8 n.val, l.code, k.code]) ∧
    (OutFrame.level l l').bytes = framed [0xA2, 0, 0, l.code, l'.code] ∧
    OutFrame.radioStale.bytes = framed [0xA3, 0, 0, 0] ∧
    (∀ rc : ResetCause, (RadioFrame.radioHello tag rc n).bytes =
      framed [0xE0, hi tag, lo tag, rc.code, BitVec.ofNat 8 n.val]) ∧
    (∀ values : List (Nat × Nat), (∀ v ∈ values, v.1 < 65536 ∧ v.2 < 65536) →
      (RadioFrame.occupancy n values).bytes =
        framed ([0xE1, 0, 0, BitVec.ofNat 8 n.val] ++ values.flatMap fun v =>
          [hi (BitVec.ofNat 16 v.1), lo (BitVec.ofNat 16 v.1), hi (BitVec.ofNat 16 v.2), lo (BitVec.ofNat 16 v.2)]))

/-- R144, R167 to R172: every well-formed command that a controller, or the radio head, sends as a frame is read back from
the frame's bytes, with every operand at every value, and no byte is left over; these are the commands of the frame rows.
The body of every frame received is written out besides, byte by byte from the tables of R170 and R172, behind it whatever
further bytes the length allows, which are ignored (R144). That the tags of LINK_OPEN, PRESENCE, CARRIER_REPORT and
EPOCH_TICK are in no command is the model's reading (log 21). -/
def Obligations.ReceivedFramesAreTheirCommands : Prop :=
  (∀ (c : Instr) (m : MasterId) (b : List Byte), WellFormed c = true → controllerFrame c = some (m, b) →
    receive m (framed b) = ([c], [])) ∧
  (∀ (c : Instr) (b : List Byte), radioHeadFrame c = some b → receiveRadio (framed b) = ([c], [])) ∧
  (∀ c : Instr, (c.frameOn.isSome = true ∨ ∃ m n k, c = .linkOpen m n k) ↔ (controllerFrame c).isSome = true) ∧
  (∀ c : Instr, c.isRadioFrame = true ↔ (radioHeadFrame c).isSome = true) ∧
  -- R170: the bytes of a body from a controller, and what may stand behind them
  (∀ (m : MasterId) (tag x y z w v : Half) (index a b c d e f g : Byte),
    let hi (h : Half) : Byte := h.extractLsb' 8 8
    let lo (h : Half) : Byte := h.extractLsb' 0 8
    let reads (body : List Byte) (i : Instr) := ∀ extra : List Byte, 4 ≤ (body ++ extra).length →
      (body ++ extra).length ≤ 60 → receive m (framed (body ++ extra)) = ([i], [])
    let query (kind : Byte) : List Byte := [0x30, hi tag, lo tag, kind, hi x, lo x]
    let config (table : Byte) (entry : List Byte) : List Byte := [0x40, hi tag, lo tag, table, index] ++ entry
    reads [0x10, hi tag, lo tag, a, b] (.linkOpen m a b) ∧
    reads [0x11, hi tag, lo tag] (.presence m) ∧
    reads [0x20, hi tag, lo tag, a, b, c] (.admitRequest m tag a b c) ∧
    reads [0x21, hi tag, lo tag, hi x, lo x] (.commit m tag x) ∧
    reads [0x22, hi tag, lo tag, hi x, lo x] (.release m tag x) ∧
    reads [0x23, hi tag, lo tag, hi x, lo x] (.cancel m tag x) ∧
    reads (query 1) (.queryCarrier m tag x) ∧ reads (query 2) (.queryGroup m tag x) ∧
    reads (query 3) (.queryClass m tag x) ∧ reads (query 4) (.queryWaiting m tag x) ∧
    reads (query 5) (.queryCase m tag x) ∧ reads (query 6) (.queryEpoch m tag x) ∧
    reads (query 7) (.queryMaster m tag x) ∧ reads (query 8) (.queryGrant m tag x) ∧
    reads (query 9) (.queryGrantTable m tag x) ∧
    (a.toNat = 0 ∨ 9 < a.toNat → reads (query a) (.queryUnknownKind m tag a x)) ∧
    reads (config 1 [a, hi x, lo x, hi y, lo y]) (.configCarrier m tag index a x y) ∧
    (∀ members : List Byte, members.length = min b.toNat 12 →
      reads (config 2 ([a, b] ++ members)) (.configGroup m tag index a b members)) ∧
    reads (config 3 [a, b, c, d, hi x, lo x, hi y, lo y, e, f, g]) (.configClass m tag index a b c d x y e f g) ∧
    reads (config 4 [hi x, lo x, hi y, lo y, a, hi z, lo z, hi w, lo w, hi v, lo v, b])
      (.configMaster m tag index x y a z w v b) ∧
    reads (config 5 [a, b, c, d]) (.configThresholdSet m tag index a b c d) ∧
    reads (config 6 [a]) (.configFallPersistence m tag index a) ∧
    reads (config 7 [hi x, lo x]) (.configEpochInterval m tag index x) ∧
    reads (config 8 [a]) (.configThinRatio m tag index a) ∧
    reads (config 9 [hi x, lo x]) (.configRadioSilencePeriod m tag index x) ∧
    (a.toNat = 0 ∨ 9 < a.toNat → reads (config a []) (.configUnknownTable m tag a index)) ∧
    reads [0x41, hi tag, lo tag, a] (.clearFault m tag a) ∧
    reads [0x42, hi tag, lo tag, 1] (.clearState m tag) ∧
    reads [0x42, hi tag, lo tag, 2] (.clearFull m tag) ∧
    (a.toNat ≠ 1 ∧ a.toNat ≠ 2 → reads [0x42, hi tag, lo tag, a] (.deviceClearUnknownDepth m tag a)) ∧
    reads [0x43, hi tag, lo tag, a] (.clearStats m tag a)) ∧
  -- R172: the bytes of a body from the radio head
  ∀ (tag available : Half) (carrier number : Byte),
    let hi (h : Half) : Byte := h.extractLsb' 8 8
    let lo (h : Half) : Byte := h.extractLsb' 0 8
    let reads (body : List Byte) (c : Instr) := ∀ extra : List Byte, 4 ≤ (body ++ extra).length →
      (body ++ extra).length ≤ 60 → receiveRadio (framed (body ++ extra)) = ([c], [])
    reads [0xC0, hi tag, lo tag] (.radioOpen tag) ∧
    reads [0xC1, hi tag, lo tag, carrier, hi available, lo available] (.carrierReport carrier available) ∧
    reads [0xC2, hi tag, lo tag, number] (.epochTick number)

/-! ### What every step keeps -/

/-- R144, R145, R152, R156, R157: the outbound queues, the radio queue, the receive buffers and the frame-fault counts stay
within their bounds, nothing waits on a link that has left UP and STALE, and none but the link's own frames and faults (log
33) wait in its buffer.
Each of these is kept by every step, and by `State.arrive`, by which a frame enters an empty receive buffer (log 10). -/
def Obligations.QueuesAndFaultCountsStayBounded : Prop :=
  let kept (s t : State) :=
    (s.QueuesBounded → t.QueuesBounded) ∧ (s.RadioQueueBounded → t.RadioQueueBounded) ∧
    (s.BuffersBounded → t.BuffersBounded) ∧ (s.BuffersOwn → t.BuffersOwn) ∧ (s.FaultsBounded → t.FaultsBounded)
  (∀ s t : State, Machine.step s = .next t → kept s t) ∧ ∀ (c : Instr) (s : State), kept s (s.arrive c)

/-- R60, R71: the waiting store and the tombstone lists stay within their bounds. -/
def Obligations.StoreAndTombstonesStayBounded : Prop :=
  ∀ s t : State, Machine.step s = .next t →
    (s.StoreBounded → t.StoreBounded) ∧ (s.TombstonesBounded → t.TombstonesBounded)

/-- R127, R142, R148 to R151: in each link state and each epoch state the timers run that belong to it, and no other. -/
def Obligations.TimersStayInAgreement : Prop :=
  ∀ s t : State, Machine.step s = .next t →
    (s.LinkTimersAgree → t.LinkTimersAgree) ∧ (s.EpochTimersAgree → t.EpochTimersAgree)

/-- R45, R87: the free queue holds the FREE entries, each once, and the age order the COLLECTING cases, each once, and no
other, so that it orders them (the list is the model's own, log 9). -/
def Obligations.FreeQueueAndAgeStayInAgreement : Prop :=
  ∀ s t : State, Machine.step s = .next t →
    (s.FreeQueueAgrees → t.FreeQueueAgrees) ∧ (s.recallUnit.AgeAgrees → t.recallUnit.AgeAgrees)

/-- R136: the overload level changes at an epoch boundary by at most one step, or to NORMAL at a reset or clear, and at no
other command. With no command waiting only a due epoch timer changes it, by one step, or a frame that waits at the head of
the receive buffer of a link that listens and is passed inward: a tick, by one step, or a clear, to NORMAL. -/
def Obligations.LevelMovesOneStep : Prop :=
  ∀ s t : State,
    let oneStep := t.epoch.level.rank = s.epoch.level.rank + 1 ∨ s.epoch.level.rank = t.epoch.level.rank + 1
    (∀ c, WellFormed c = true → Machine.exec c s = .next t → t.epoch.level ≠ s.epoch.level →
      (c.movesEpoch = true ∧ oneStep) ∨ (c.clears = true ∧ t.epoch.level = .normal)) ∧
    (s.pending = [] → Machine.step s = .next t → t.epoch.level ≠ s.epoch.level →
      (∃ c, s.dueEvent = some c ∧ c.movesEpoch = true ∧ oneStep) ∨
      (s.dueEvent = none ∧ ∃ c,
        ((∃ m, s.Listens m ∧ (s.port m).rxBuffer.head? = some c) ∨
          (s.radio.link ≠ .down ∧ s.radio.rxBuffer.head? = some c)) ∧
        (WellFormed c = true →
          (c.movesEpoch = true ∧ oneStep) ∨ (c.clears = true ∧ t.epoch.level = .normal))))

/-- R158: what configuration wrote, the rights and the sampled straps change only by a POWER_ON, a RESET_PIN, or a frame
that needs the configuration right from a link that serves frames and has it. With no command waiting only such a frame at
the head of the receive buffer of its own link (R145), which listens and has the right, changes them when it is passed
inward; no event of the part itself does. -/
def Obligations.SettingsChangeOnlyByRight : Prop :=
  (∀ (c : Instr) (s t : State), Machine.exec c s = .next t → t.settings ≠ s.settings →
    (∃ m tag, c.needsRight = some (m, tag) ∧ s.MayWrite m) ∨
    (∃ cfgr epm, c = .powerOn cfgr epm ∨ c = .resetPin cfgr epm)) ∧
  ∀ s t : State, s.BuffersOwn → s.pending = [] → Machine.step s = .next t → t.settings ≠ s.settings →
    s.dueEvent = none ∧ ∃ c m tag, (s.port m).rxBuffer.head? = some c ∧ c.needsRight = some (m, tag) ∧
      s.Listens m ∧ (s.port m).configRight = true

/-- R12, R62: COMMIT, RELEASE, CANCEL, ADMIT and the expiries of holds, waits and recalls complete and, with the
continuation that follows them, change only what a claim may change: every port but for its queue, overrun pending and
flags, the settings, the intake, the epochs but for the per-epoch counters, and the radio link are as they were, or, for a
frame, as the frame's arrival left them. ADMIT alone also steps a thinning counter, at most that of its master and code. -/
def Obligations.ClaimsKeepTheSkeleton : Prop :=
  ∀ (c : Instr) (m : MasterId) (tag x handle : Half) (s : State),
    (c = .commit m tag handle ∨ c = .release m tag handle ∨ c = .cancel m tag x →
      ∃ t, Machine.exec c s = .next t ∧ (s.Serves m → t.skeleton = (s.wake m).skeleton)) ∧
    (c = .holdExpiry handle ∨ c = .recallDeadlineExpiry handle ∨ c = .waitExpiry m tag →
      ∃ t, Machine.exec c s = .next t ∧ t.skeleton = s.skeleton) ∧
    (∀ code units mode, c = .admitRequest m tag code units mode →
      ∃ t, Machine.exec c s = .next t ∧
        (s.Serves m →
          { t.skeleton with intake := { t.intake with thinning := s.intake.thinning } } = (s.wake m).skeleton ∧
          ∀ j (k : Fin 64), j ≠ m ∨ k.val ≠ code.toNat →
            look (look t.intake.thinning j) k = look (look s.intake.thinning j) k))
end

