-- ==== Sys2Proof/Laws/State.lean ====
section
/-! SUPPORT. Reads of the tables after a write, and every field of State after every update of Machine/Ops.lean. -/

namespace Sys2Proof

section Tables

variable {α β : Type} {n : Nat}

@[simp] theorem look_put_same (v : Vector α n) (i : Fin n) (x : α) : look (put v i x) i = x := by
  simp [look, put]

theorem look_put_ne (v : Vector α n) {i j : Fin n} (h : j ≠ i) (x : α) : look (put v i x) j = look v j := by
  have : i.val ≠ j.val := fun e => h (Fin.ext e.symm)
  simp [look, put, this]

theorem look_put (v : Vector α n) (i j : Fin n) (x : α) : look (put v i x) j = if j = i then x else look v j := by
  by_cases h : j = i
  · subst h; simp
  · simp [h, look_put_ne]

@[simp] theorem put_look (v : Vector α n) (i : Fin n) : put v i (look v i) = v := by
  simp [look, put]

@[simp] theorem put_put (v : Vector α n) (i : Fin n) (x y : α) : put (put v i x) i y = put v i y := by
  simp [put]

theorem look_ext {v w : Vector α n} (h : ∀ i, look v i = look w i) : v = w :=
  Vector.ext fun i hi => h ⟨i, hi⟩

@[simp] theorem look_map (f : α → β) (v : Vector α n) (i : Fin n) : look (v.map f) i = f (look v i) := by
  simp [look]

@[simp] theorem look_replicate (x : α) (i : Fin n) : look (Vector.replicate n x) i = x := by
  simp [look]

/-- A write that a projection does not see leaves the projected table as it was. -/
theorem map_put_of_eq (f : α → β) (v : Vector α n) (i : Fin n) (x : α) (h : f x = f (look v i)) :
    (put v i x).map f = v.map f := by
  apply look_ext
  intro j
  by_cases e : j = i
  · subst e; simp [h]
  · simp [look_put_ne _ e]

end Tables

namespace Machine.State

@[simp] theorem ports_modPort (s : State) (m : MasterId) (f : Port → Port) : (s.modPort m f).ports = put s.ports m (f (look s.ports m)) := rfl
@[simp] theorem radio_modPort (s : State) (m : MasterId) (f : Port → Port) : (s.modPort m f).radio = s.radio := rfl
@[simp] theorem intake_modPort (s : State) (m : MasterId) (f : Port → Port) : (s.modPort m f).intake = s.intake := rfl
@[simp] theorem pool_modPort (s : State) (m : MasterId) (f : Port → Port) : (s.modPort m f).pool = s.pool := rfl
@[simp] theorem table_modPort (s : State) (m : MasterId) (f : Port → Port) : (s.modPort m f).table = s.table := rfl
@[simp] theorem engine_modPort (s : State) (m : MasterId) (f : Port → Port) : (s.modPort m f).engine = s.engine := rfl
@[simp] theorem waiting_modPort (s : State) (m : MasterId) (f : Port → Port) : (s.modPort m f).waiting = s.waiting := rfl
@[simp] theorem recallUnit_modPort (s : State) (m : MasterId) (f : Port → Port) : (s.modPort m f).recallUnit = s.recallUnit := rfl
@[simp] theorem epoch_modPort (s : State) (m : MasterId) (f : Port → Port) : (s.modPort m f).epoch = s.epoch := rfl
@[simp] theorem responder_modPort (s : State) (m : MasterId) (f : Port → Port) : (s.modPort m f).responder = s.responder := rfl
@[simp] theorem resetHeld_modPort (s : State) (m : MasterId) (f : Port → Port) : (s.modPort m f).resetHeld = s.resetHeld := rfl
@[simp] theorem pending_modPort (s : State) (m : MasterId) (f : Port → Port) : (s.modPort m f).pending = s.pending := rfl

@[simp] theorem ports_modCarrier (s : State) (c : CarrierId) (f : Carrier → Carrier) : (s.modCarrier c f).ports = s.ports := rfl
@[simp] theorem radio_modCarrier (s : State) (c : CarrierId) (f : Carrier → Carrier) : (s.modCarrier c f).radio = s.radio := rfl
@[simp] theorem intake_modCarrier (s : State) (c : CarrierId) (f : Carrier → Carrier) : (s.modCarrier c f).intake = s.intake := rfl
@[simp] theorem pool_modCarrier (s : State) (c : CarrierId) (f : Carrier → Carrier) : (s.modCarrier c f).pool = { s.pool with carriers := put s.pool.carriers c (f (look s.pool.carriers c)) } := rfl
@[simp] theorem table_modCarrier (s : State) (c : CarrierId) (f : Carrier → Carrier) : (s.modCarrier c f).table = s.table := rfl
@[simp] theorem engine_modCarrier (s : State) (c : CarrierId) (f : Carrier → Carrier) : (s.modCarrier c f).engine = s.engine := rfl
@[simp] theorem waiting_modCarrier (s : State) (c : CarrierId) (f : Carrier → Carrier) : (s.modCarrier c f).waiting = s.waiting := rfl
@[simp] theorem recallUnit_modCarrier (s : State) (c : CarrierId) (f : Carrier → Carrier) : (s.modCarrier c f).recallUnit = s.recallUnit := rfl
@[simp] theorem epoch_modCarrier (s : State) (c : CarrierId) (f : Carrier → Carrier) : (s.modCarrier c f).epoch = s.epoch := rfl
@[simp] theorem responder_modCarrier (s : State) (c : CarrierId) (f : Carrier → Carrier) : (s.modCarrier c f).responder = s.responder := rfl
@[simp] theorem resetHeld_modCarrier (s : State) (c : CarrierId) (f : Carrier → Carrier) : (s.modCarrier c f).resetHeld = s.resetHeld := rfl
@[simp] theorem pending_modCarrier (s : State) (c : CarrierId) (f : Carrier → Carrier) : (s.modCarrier c f).pending = s.pending := rfl

@[simp] theorem ports_modMaster (s : State) (m : MasterId) (f : MasterRecord → MasterRecord) : (s.modMaster m f).ports = s.ports := rfl
@[simp] theorem radio_modMaster (s : State) (m : MasterId) (f : MasterRecord → MasterRecord) : (s.modMaster m f).radio = s.radio := rfl
@[simp] theorem intake_modMaster (s : State) (m : MasterId) (f : MasterRecord → MasterRecord) : (s.modMaster m f).intake = s.intake := rfl
@[simp] theorem pool_modMaster (s : State) (m : MasterId) (f : MasterRecord → MasterRecord) : (s.modMaster m f).pool = { s.pool with masters := put s.pool.masters m (f (look s.pool.masters m)) } := rfl
@[simp] theorem table_modMaster (s : State) (m : MasterId) (f : MasterRecord → MasterRecord) : (s.modMaster m f).table = s.table := rfl
@[simp] theorem engine_modMaster (s : State) (m : MasterId) (f : MasterRecord → MasterRecord) : (s.modMaster m f).engine = s.engine := rfl
@[simp] theorem waiting_modMaster (s : State) (m : MasterId) (f : MasterRecord → MasterRecord) : (s.modMaster m f).waiting = s.waiting := rfl
@[simp] theorem recallUnit_modMaster (s : State) (m : MasterId) (f : MasterRecord → MasterRecord) : (s.modMaster m f).recallUnit = s.recallUnit := rfl
@[simp] theorem epoch_modMaster (s : State) (m : MasterId) (f : MasterRecord → MasterRecord) : (s.modMaster m f).epoch = s.epoch := rfl
@[simp] theorem responder_modMaster (s : State) (m : MasterId) (f : MasterRecord → MasterRecord) : (s.modMaster m f).responder = s.responder := rfl
@[simp] theorem resetHeld_modMaster (s : State) (m : MasterId) (f : MasterRecord → MasterRecord) : (s.modMaster m f).resetHeld = s.resetHeld := rfl
@[simp] theorem pending_modMaster (s : State) (m : MasterId) (f : MasterRecord → MasterRecord) : (s.modMaster m f).pending = s.pending := rfl

@[simp] theorem ports_setEntry (s : State) (i : GrantIndex) (e : Entry) : (s.setEntry i e).ports = s.ports := rfl
@[simp] theorem radio_setEntry (s : State) (i : GrantIndex) (e : Entry) : (s.setEntry i e).radio = s.radio := rfl
@[simp] theorem intake_setEntry (s : State) (i : GrantIndex) (e : Entry) : (s.setEntry i e).intake = s.intake := rfl
@[simp] theorem pool_setEntry (s : State) (i : GrantIndex) (e : Entry) : (s.setEntry i e).pool = s.pool := rfl
@[simp] theorem table_setEntry (s : State) (i : GrantIndex) (e : Entry) : (s.setEntry i e).table = { s.table with entries := put s.table.entries i e } := rfl
@[simp] theorem engine_setEntry (s : State) (i : GrantIndex) (e : Entry) : (s.setEntry i e).engine = s.engine := rfl
@[simp] theorem waiting_setEntry (s : State) (i : GrantIndex) (e : Entry) : (s.setEntry i e).waiting = s.waiting := rfl
@[simp] theorem recallUnit_setEntry (s : State) (i : GrantIndex) (e : Entry) : (s.setEntry i e).recallUnit = s.recallUnit := rfl
@[simp] theorem epoch_setEntry (s : State) (i : GrantIndex) (e : Entry) : (s.setEntry i e).epoch = s.epoch := rfl
@[simp] theorem responder_setEntry (s : State) (i : GrantIndex) (e : Entry) : (s.setEntry i e).responder = s.responder := rfl
@[simp] theorem resetHeld_setEntry (s : State) (i : GrantIndex) (e : Entry) : (s.setEntry i e).resetHeld = s.resetHeld := rfl
@[simp] theorem pending_setEntry (s : State) (i : GrantIndex) (e : Entry) : (s.setEntry i e).pending = s.pending := rfl

@[simp] theorem ports_setGrant (s : State) (h : Handle) (g : Grant) : (s.setGrant h g).ports = s.ports := rfl
@[simp] theorem radio_setGrant (s : State) (h : Handle) (g : Grant) : (s.setGrant h g).radio = s.radio := rfl
@[simp] theorem intake_setGrant (s : State) (h : Handle) (g : Grant) : (s.setGrant h g).intake = s.intake := rfl
@[simp] theorem pool_setGrant (s : State) (h : Handle) (g : Grant) : (s.setGrant h g).pool = s.pool := rfl
@[simp] theorem table_setGrant (s : State) (h : Handle) (g : Grant) : (s.setGrant h g).table = { s.table with entries := put s.table.entries h.index { look s.table.entries h.index with grant := some g } } := rfl
@[simp] theorem engine_setGrant (s : State) (h : Handle) (g : Grant) : (s.setGrant h g).engine = s.engine := rfl
@[simp] theorem waiting_setGrant (s : State) (h : Handle) (g : Grant) : (s.setGrant h g).waiting = s.waiting := rfl
@[simp] theorem recallUnit_setGrant (s : State) (h : Handle) (g : Grant) : (s.setGrant h g).recallUnit = s.recallUnit := rfl
@[simp] theorem epoch_setGrant (s : State) (h : Handle) (g : Grant) : (s.setGrant h g).epoch = s.epoch := rfl
@[simp] theorem responder_setGrant (s : State) (h : Handle) (g : Grant) : (s.setGrant h g).responder = s.responder := rfl
@[simp] theorem resetHeld_setGrant (s : State) (h : Handle) (g : Grant) : (s.setGrant h g).resetHeld = s.resetHeld := rfl
@[simp] theorem pending_setGrant (s : State) (h : Handle) (g : Grant) : (s.setGrant h g).pending = s.pending := rfl

@[simp] theorem ports_modTombstones (s : State) (m : MasterId) (f : List Handle → List Handle) : (s.modTombstones m f).ports = s.ports := rfl
@[simp] theorem radio_modTombstones (s : State) (m : MasterId) (f : List Handle → List Handle) : (s.modTombstones m f).radio = s.radio := rfl
@[simp] theorem intake_modTombstones (s : State) (m : MasterId) (f : List Handle → List Handle) : (s.modTombstones m f).intake = s.intake := rfl
@[simp] theorem pool_modTombstones (s : State) (m : MasterId) (f : List Handle → List Handle) : (s.modTombstones m f).pool = s.pool := rfl
@[simp] theorem table_modTombstones (s : State) (m : MasterId) (f : List Handle → List Handle) : (s.modTombstones m f).table = { s.table with tombstones := put s.table.tombstones m (f (look s.table.tombstones m)) } := rfl
@[simp] theorem engine_modTombstones (s : State) (m : MasterId) (f : List Handle → List Handle) : (s.modTombstones m f).engine = s.engine := rfl
@[simp] theorem waiting_modTombstones (s : State) (m : MasterId) (f : List Handle → List Handle) : (s.modTombstones m f).waiting = s.waiting := rfl
@[simp] theorem recallUnit_modTombstones (s : State) (m : MasterId) (f : List Handle → List Handle) : (s.modTombstones m f).recallUnit = s.recallUnit := rfl
@[simp] theorem epoch_modTombstones (s : State) (m : MasterId) (f : List Handle → List Handle) : (s.modTombstones m f).epoch = s.epoch := rfl
@[simp] theorem responder_modTombstones (s : State) (m : MasterId) (f : List Handle → List Handle) : (s.modTombstones m f).responder = s.responder := rfl
@[simp] theorem resetHeld_modTombstones (s : State) (m : MasterId) (f : List Handle → List Handle) : (s.modTombstones m f).resetHeld = s.resetHeld := rfl
@[simp] theorem pending_modTombstones (s : State) (m : MasterId) (f : List Handle → List Handle) : (s.modTombstones m f).pending = s.pending := rfl

@[simp] theorem ports_setFreeQueue (s : State) (q : List GrantIndex) : (s.setFreeQueue q).ports = s.ports := rfl
@[simp] theorem radio_setFreeQueue (s : State) (q : List GrantIndex) : (s.setFreeQueue q).radio = s.radio := rfl
@[simp] theorem intake_setFreeQueue (s : State) (q : List GrantIndex) : (s.setFreeQueue q).intake = s.intake := rfl
@[simp] theorem pool_setFreeQueue (s : State) (q : List GrantIndex) : (s.setFreeQueue q).pool = s.pool := rfl
@[simp] theorem table_setFreeQueue (s : State) (q : List GrantIndex) : (s.setFreeQueue q).table = { s.table with freeQueue := q } := rfl
@[simp] theorem engine_setFreeQueue (s : State) (q : List GrantIndex) : (s.setFreeQueue q).engine = s.engine := rfl
@[simp] theorem waiting_setFreeQueue (s : State) (q : List GrantIndex) : (s.setFreeQueue q).waiting = s.waiting := rfl
@[simp] theorem recallUnit_setFreeQueue (s : State) (q : List GrantIndex) : (s.setFreeQueue q).recallUnit = s.recallUnit := rfl
@[simp] theorem epoch_setFreeQueue (s : State) (q : List GrantIndex) : (s.setFreeQueue q).epoch = s.epoch := rfl
@[simp] theorem responder_setFreeQueue (s : State) (q : List GrantIndex) : (s.setFreeQueue q).responder = s.responder := rfl
@[simp] theorem resetHeld_setFreeQueue (s : State) (q : List GrantIndex) : (s.setFreeQueue q).resetHeld = s.resetHeld := rfl
@[simp] theorem pending_setFreeQueue (s : State) (q : List GrantIndex) : (s.setFreeQueue q).pending = s.pending := rfl

@[simp] theorem ports_setCase (s : State) (k : CaseId) (x : Option Case) : (s.setCase k x).ports = s.ports := rfl
@[simp] theorem radio_setCase (s : State) (k : CaseId) (x : Option Case) : (s.setCase k x).radio = s.radio := rfl
@[simp] theorem intake_setCase (s : State) (k : CaseId) (x : Option Case) : (s.setCase k x).intake = s.intake := rfl
@[simp] theorem pool_setCase (s : State) (k : CaseId) (x : Option Case) : (s.setCase k x).pool = s.pool := rfl
@[simp] theorem table_setCase (s : State) (k : CaseId) (x : Option Case) : (s.setCase k x).table = s.table := rfl
@[simp] theorem engine_setCase (s : State) (k : CaseId) (x : Option Case) : (s.setCase k x).engine = s.engine := rfl
@[simp] theorem waiting_setCase (s : State) (k : CaseId) (x : Option Case) : (s.setCase k x).waiting = s.waiting := rfl
@[simp] theorem recallUnit_setCase (s : State) (k : CaseId) (x : Option Case) : (s.setCase k x).recallUnit = { s.recallUnit with cases := put s.recallUnit.cases k x } := rfl
@[simp] theorem epoch_setCase (s : State) (k : CaseId) (x : Option Case) : (s.setCase k x).epoch = s.epoch := rfl
@[simp] theorem responder_setCase (s : State) (k : CaseId) (x : Option Case) : (s.setCase k x).responder = s.responder := rfl
@[simp] theorem resetHeld_setCase (s : State) (k : CaseId) (x : Option Case) : (s.setCase k x).resetHeld = s.resetHeld := rfl
@[simp] theorem pending_setCase (s : State) (k : CaseId) (x : Option Case) : (s.setCase k x).pending = s.pending := rfl

@[simp] theorem ports_modCase (s : State) (k : CaseId) (f : Case → Case) : (s.modCase k f).ports = s.ports := rfl
@[simp] theorem radio_modCase (s : State) (k : CaseId) (f : Case → Case) : (s.modCase k f).radio = s.radio := rfl
@[simp] theorem intake_modCase (s : State) (k : CaseId) (f : Case → Case) : (s.modCase k f).intake = s.intake := rfl
@[simp] theorem pool_modCase (s : State) (k : CaseId) (f : Case → Case) : (s.modCase k f).pool = s.pool := rfl
@[simp] theorem table_modCase (s : State) (k : CaseId) (f : Case → Case) : (s.modCase k f).table = s.table := rfl
@[simp] theorem engine_modCase (s : State) (k : CaseId) (f : Case → Case) : (s.modCase k f).engine = s.engine := rfl
@[simp] theorem waiting_modCase (s : State) (k : CaseId) (f : Case → Case) : (s.modCase k f).waiting = s.waiting := rfl
@[simp] theorem recallUnit_modCase (s : State) (k : CaseId) (f : Case → Case) : (s.modCase k f).recallUnit = { s.recallUnit with cases := put s.recallUnit.cases k ((look s.recallUnit.cases k).map f) } := rfl
@[simp] theorem epoch_modCase (s : State) (k : CaseId) (f : Case → Case) : (s.modCase k f).epoch = s.epoch := rfl
@[simp] theorem responder_modCase (s : State) (k : CaseId) (f : Case → Case) : (s.modCase k f).responder = s.responder := rfl
@[simp] theorem resetHeld_modCase (s : State) (k : CaseId) (f : Case → Case) : (s.modCase k f).resetHeld = s.resetHeld := rfl
@[simp] theorem pending_modCase (s : State) (k : CaseId) (f : Case → Case) : (s.modCase k f).pending = s.pending := rfl

@[simp] theorem ports_setAge (s : State) (l : List CaseId) : (s.setAge l).ports = s.ports := rfl
@[simp] theorem radio_setAge (s : State) (l : List CaseId) : (s.setAge l).radio = s.radio := rfl
@[simp] theorem intake_setAge (s : State) (l : List CaseId) : (s.setAge l).intake = s.intake := rfl
@[simp] theorem pool_setAge (s : State) (l : List CaseId) : (s.setAge l).pool = s.pool := rfl
@[simp] theorem table_setAge (s : State) (l : List CaseId) : (s.setAge l).table = s.table := rfl
@[simp] theorem engine_setAge (s : State) (l : List CaseId) : (s.setAge l).engine = s.engine := rfl
@[simp] theorem waiting_setAge (s : State) (l : List CaseId) : (s.setAge l).waiting = s.waiting := rfl
@[simp] theorem recallUnit_setAge (s : State) (l : List CaseId) : (s.setAge l).recallUnit = { s.recallUnit with age := l } := rfl
@[simp] theorem epoch_setAge (s : State) (l : List CaseId) : (s.setAge l).epoch = s.epoch := rfl
@[simp] theorem responder_setAge (s : State) (l : List CaseId) : (s.setAge l).responder = s.responder := rfl
@[simp] theorem resetHeld_setAge (s : State) (l : List CaseId) : (s.setAge l).resetHeld = s.resetHeld := rfl
@[simp] theorem pending_setAge (s : State) (l : List CaseId) : (s.setAge l).pending = s.pending := rfl

@[simp] theorem ports_modShed (s : State) (c : CarrierId) (f : ShedRecord → ShedRecord) : (s.modShed c f).ports = s.ports := rfl
@[simp] theorem radio_modShed (s : State) (c : CarrierId) (f : ShedRecord → ShedRecord) : (s.modShed c f).radio = s.radio := rfl
@[simp] theorem intake_modShed (s : State) (c : CarrierId) (f : ShedRecord → ShedRecord) : (s.modShed c f).intake = s.intake := rfl
@[simp] theorem pool_modShed (s : State) (c : CarrierId) (f : ShedRecord → ShedRecord) : (s.modShed c f).pool = s.pool := rfl
@[simp] theorem table_modShed (s : State) (c : CarrierId) (f : ShedRecord → ShedRecord) : (s.modShed c f).table = s.table := rfl
@[simp] theorem engine_modShed (s : State) (c : CarrierId) (f : ShedRecord → ShedRecord) : (s.modShed c f).engine = s.engine := rfl
@[simp] theorem waiting_modShed (s : State) (c : CarrierId) (f : ShedRecord → ShedRecord) : (s.modShed c f).waiting = s.waiting := rfl
@[simp] theorem recallUnit_modShed (s : State) (c : CarrierId) (f : ShedRecord → ShedRecord) : (s.modShed c f).recallUnit = { s.recallUnit with shed := put s.recallUnit.shed c (f (look s.recallUnit.shed c)) } := rfl
@[simp] theorem epoch_modShed (s : State) (c : CarrierId) (f : ShedRecord → ShedRecord) : (s.modShed c f).epoch = s.epoch := rfl
@[simp] theorem responder_modShed (s : State) (c : CarrierId) (f : ShedRecord → ShedRecord) : (s.modShed c f).responder = s.responder := rfl
@[simp] theorem resetHeld_modShed (s : State) (c : CarrierId) (f : ShedRecord → ShedRecord) : (s.modShed c f).resetHeld = s.resetHeld := rfl
@[simp] theorem pending_modShed (s : State) (c : CarrierId) (f : ShedRecord → ShedRecord) : (s.modShed c f).pending = s.pending := rfl

@[simp] theorem ports_modStats (s : State) (m : MasterId) (f : Stats → Stats) : (s.modStats m f).ports = s.ports := rfl
@[simp] theorem radio_modStats (s : State) (m : MasterId) (f : Stats → Stats) : (s.modStats m f).radio = s.radio := rfl
@[simp] theorem intake_modStats (s : State) (m : MasterId) (f : Stats → Stats) : (s.modStats m f).intake = s.intake := rfl
@[simp] theorem pool_modStats (s : State) (m : MasterId) (f : Stats → Stats) : (s.modStats m f).pool = s.pool := rfl
@[simp] theorem table_modStats (s : State) (m : MasterId) (f : Stats → Stats) : (s.modStats m f).table = s.table := rfl
@[simp] theorem engine_modStats (s : State) (m : MasterId) (f : Stats → Stats) : (s.modStats m f).engine = s.engine := rfl
@[simp] theorem waiting_modStats (s : State) (m : MasterId) (f : Stats → Stats) : (s.modStats m f).waiting = s.waiting := rfl
@[simp] theorem recallUnit_modStats (s : State) (m : MasterId) (f : Stats → Stats) : (s.modStats m f).recallUnit = s.recallUnit := rfl
@[simp] theorem epoch_modStats (s : State) (m : MasterId) (f : Stats → Stats) : (s.modStats m f).epoch = s.epoch := rfl
@[simp] theorem responder_modStats (s : State) (m : MasterId) (f : Stats → Stats) : (s.modStats m f).responder = { s.responder with stats := put s.responder.stats m (f (look s.responder.stats m)) } := rfl
@[simp] theorem resetHeld_modStats (s : State) (m : MasterId) (f : Stats → Stats) : (s.modStats m f).resetHeld = s.resetHeld := rfl
@[simp] theorem pending_modStats (s : State) (m : MasterId) (f : Stats → Stats) : (s.modStats m f).pending = s.pending := rfl

@[simp] theorem ports_modEngine (s : State) (f : Engine → Engine) : (s.modEngine f).ports = s.ports := rfl
@[simp] theorem radio_modEngine (s : State) (f : Engine → Engine) : (s.modEngine f).radio = s.radio := rfl
@[simp] theorem intake_modEngine (s : State) (f : Engine → Engine) : (s.modEngine f).intake = s.intake := rfl
@[simp] theorem pool_modEngine (s : State) (f : Engine → Engine) : (s.modEngine f).pool = s.pool := rfl
@[simp] theorem table_modEngine (s : State) (f : Engine → Engine) : (s.modEngine f).table = s.table := rfl
@[simp] theorem engine_modEngine (s : State) (f : Engine → Engine) : (s.modEngine f).engine = f s.engine := rfl
@[simp] theorem waiting_modEngine (s : State) (f : Engine → Engine) : (s.modEngine f).waiting = s.waiting := rfl
@[simp] theorem recallUnit_modEngine (s : State) (f : Engine → Engine) : (s.modEngine f).recallUnit = s.recallUnit := rfl
@[simp] theorem epoch_modEngine (s : State) (f : Engine → Engine) : (s.modEngine f).epoch = s.epoch := rfl
@[simp] theorem responder_modEngine (s : State) (f : Engine → Engine) : (s.modEngine f).responder = s.responder := rfl
@[simp] theorem resetHeld_modEngine (s : State) (f : Engine → Engine) : (s.modEngine f).resetHeld = s.resetHeld := rfl
@[simp] theorem pending_modEngine (s : State) (f : Engine → Engine) : (s.modEngine f).pending = s.pending := rfl

@[simp] theorem ports_modEpoch (s : State) (f : EpochUnit → EpochUnit) : (s.modEpoch f).ports = s.ports := rfl
@[simp] theorem radio_modEpoch (s : State) (f : EpochUnit → EpochUnit) : (s.modEpoch f).radio = s.radio := rfl
@[simp] theorem intake_modEpoch (s : State) (f : EpochUnit → EpochUnit) : (s.modEpoch f).intake = s.intake := rfl
@[simp] theorem pool_modEpoch (s : State) (f : EpochUnit → EpochUnit) : (s.modEpoch f).pool = s.pool := rfl
@[simp] theorem table_modEpoch (s : State) (f : EpochUnit → EpochUnit) : (s.modEpoch f).table = s.table := rfl
@[simp] theorem engine_modEpoch (s : State) (f : EpochUnit → EpochUnit) : (s.modEpoch f).engine = s.engine := rfl
@[simp] theorem waiting_modEpoch (s : State) (f : EpochUnit → EpochUnit) : (s.modEpoch f).waiting = s.waiting := rfl
@[simp] theorem recallUnit_modEpoch (s : State) (f : EpochUnit → EpochUnit) : (s.modEpoch f).recallUnit = s.recallUnit := rfl
@[simp] theorem epoch_modEpoch (s : State) (f : EpochUnit → EpochUnit) : (s.modEpoch f).epoch = f s.epoch := rfl
@[simp] theorem responder_modEpoch (s : State) (f : EpochUnit → EpochUnit) : (s.modEpoch f).responder = s.responder := rfl
@[simp] theorem resetHeld_modEpoch (s : State) (f : EpochUnit → EpochUnit) : (s.modEpoch f).resetHeld = s.resetHeld := rfl
@[simp] theorem pending_modEpoch (s : State) (f : EpochUnit → EpochUnit) : (s.modEpoch f).pending = s.pending := rfl

@[simp] theorem ports_modCounters (s : State) (f : Counters → Counters) : (s.modCounters f).ports = s.ports := rfl
@[simp] theorem radio_modCounters (s : State) (f : Counters → Counters) : (s.modCounters f).radio = s.radio := rfl
@[simp] theorem intake_modCounters (s : State) (f : Counters → Counters) : (s.modCounters f).intake = s.intake := rfl
@[simp] theorem pool_modCounters (s : State) (f : Counters → Counters) : (s.modCounters f).pool = s.pool := rfl
@[simp] theorem table_modCounters (s : State) (f : Counters → Counters) : (s.modCounters f).table = s.table := rfl
@[simp] theorem engine_modCounters (s : State) (f : Counters → Counters) : (s.modCounters f).engine = s.engine := rfl
@[simp] theorem waiting_modCounters (s : State) (f : Counters → Counters) : (s.modCounters f).waiting = s.waiting := rfl
@[simp] theorem recallUnit_modCounters (s : State) (f : Counters → Counters) : (s.modCounters f).recallUnit = s.recallUnit := rfl
@[simp] theorem epoch_modCounters (s : State) (f : Counters → Counters) : (s.modCounters f).epoch = { s.epoch with counters := f s.epoch.counters } := rfl
@[simp] theorem responder_modCounters (s : State) (f : Counters → Counters) : (s.modCounters f).responder = s.responder := rfl
@[simp] theorem resetHeld_modCounters (s : State) (f : Counters → Counters) : (s.modCounters f).resetHeld = s.resetHeld := rfl
@[simp] theorem pending_modCounters (s : State) (f : Counters → Counters) : (s.modCounters f).pending = s.pending := rfl

@[simp] theorem ports_modWaiting (s : State) (f : Waiting → Waiting) : (s.modWaiting f).ports = s.ports := rfl
@[simp] theorem radio_modWaiting (s : State) (f : Waiting → Waiting) : (s.modWaiting f).radio = s.radio := rfl
@[simp] theorem intake_modWaiting (s : State) (f : Waiting → Waiting) : (s.modWaiting f).intake = s.intake := rfl
@[simp] theorem pool_modWaiting (s : State) (f : Waiting → Waiting) : (s.modWaiting f).pool = s.pool := rfl
@[simp] theorem table_modWaiting (s : State) (f : Waiting → Waiting) : (s.modWaiting f).table = s.table := rfl
@[simp] theorem engine_modWaiting (s : State) (f : Waiting → Waiting) : (s.modWaiting f).engine = s.engine := rfl
@[simp] theorem waiting_modWaiting (s : State) (f : Waiting → Waiting) : (s.modWaiting f).waiting = f s.waiting := rfl
@[simp] theorem recallUnit_modWaiting (s : State) (f : Waiting → Waiting) : (s.modWaiting f).recallUnit = s.recallUnit := rfl
@[simp] theorem epoch_modWaiting (s : State) (f : Waiting → Waiting) : (s.modWaiting f).epoch = s.epoch := rfl
@[simp] theorem responder_modWaiting (s : State) (f : Waiting → Waiting) : (s.modWaiting f).responder = s.responder := rfl
@[simp] theorem resetHeld_modWaiting (s : State) (f : Waiting → Waiting) : (s.modWaiting f).resetHeld = s.resetHeld := rfl
@[simp] theorem pending_modWaiting (s : State) (f : Waiting → Waiting) : (s.modWaiting f).pending = s.pending := rfl

@[simp] theorem ports_modRadio (s : State) (f : RadioPort → RadioPort) : (s.modRadio f).ports = s.ports := rfl
@[simp] theorem radio_modRadio (s : State) (f : RadioPort → RadioPort) : (s.modRadio f).radio = f s.radio := rfl
@[simp] theorem intake_modRadio (s : State) (f : RadioPort → RadioPort) : (s.modRadio f).intake = s.intake := rfl
@[simp] theorem pool_modRadio (s : State) (f : RadioPort → RadioPort) : (s.modRadio f).pool = s.pool := rfl
@[simp] theorem table_modRadio (s : State) (f : RadioPort → RadioPort) : (s.modRadio f).table = s.table := rfl
@[simp] theorem engine_modRadio (s : State) (f : RadioPort → RadioPort) : (s.modRadio f).engine = s.engine := rfl
@[simp] theorem waiting_modRadio (s : State) (f : RadioPort → RadioPort) : (s.modRadio f).waiting = s.waiting := rfl
@[simp] theorem recallUnit_modRadio (s : State) (f : RadioPort → RadioPort) : (s.modRadio f).recallUnit = s.recallUnit := rfl
@[simp] theorem epoch_modRadio (s : State) (f : RadioPort → RadioPort) : (s.modRadio f).epoch = s.epoch := rfl
@[simp] theorem responder_modRadio (s : State) (f : RadioPort → RadioPort) : (s.modRadio f).responder = s.responder := rfl
@[simp] theorem resetHeld_modRadio (s : State) (f : RadioPort → RadioPort) : (s.modRadio f).resetHeld = s.resetHeld := rfl
@[simp] theorem pending_modRadio (s : State) (f : RadioPort → RadioPort) : (s.modRadio f).pending = s.pending := rfl

@[simp] theorem port_modPort_same (s : State) (m : MasterId) (f : Port → Port) :
    (s.modPort m f).port m = f (s.port m) := by simp [port]

theorem port_modPort_ne (s : State) {m j : MasterId} (h : j ≠ m) (f : Port → Port) :
    (s.modPort m f).port j = s.port j := by simp [port, look_put_ne _ h]

@[simp] theorem carrier_modCarrier_same (s : State) (c : CarrierId) (f : Carrier → Carrier) :
    (s.modCarrier c f).carrier c = f (s.carrier c) := by simp [carrier]

theorem carrier_modCarrier_ne (s : State) {c d : CarrierId} (h : d ≠ c) (f : Carrier → Carrier) :
    (s.modCarrier c f).carrier d = s.carrier d := by simp [carrier, look_put_ne _ h]

@[simp] theorem master_modMaster_same (s : State) (m : MasterId) (f : MasterRecord → MasterRecord) :
    (s.modMaster m f).master m = f (s.master m) := by simp [master]

theorem master_modMaster_ne (s : State) {m j : MasterId} (h : j ≠ m) (f : MasterRecord → MasterRecord) :
    (s.modMaster m f).master j = s.master j := by simp [master, look_put_ne _ h]

@[simp] theorem caseAt_setCase_same (s : State) (k : CaseId) (x : Option Case) : (s.setCase k x).caseAt k = x := by
  simp [caseAt]

theorem caseAt_setCase_ne (s : State) {k j : CaseId} (h : j ≠ k) (x : Option Case) :
    (s.setCase k x).caseAt j = s.caseAt j := by simp [caseAt, look_put_ne _ h]

/-- A grant written under a matching handle is the grant the handle names. -/
theorem grantAt_setGrant_same (s : State) (h : Handle) (g : Grant) (e : (look s.table.entries h.index).gen = h.gen) :
    (s.setGrant h g).grantAt h = some g := by simp [grantAt, e]

/-- Handles of other entries keep their grants. -/
theorem grantAt_setGrant_ne (s : State) {h k : Handle} (g : Grant) (e : k.index ≠ h.index) :
    (s.setGrant h g).grantAt k = s.grantAt k := by simp [grantAt, look_put_ne _ e]

end Machine.State

end Sys2Proof
end

