-- ==== Sys2Proof/Laws/Offer.lean ====
section
/-! SUPPORT. What an offer to an outbound queue can do (R152, R153): nothing, one frame more at the tail of a queue that
held fewer than 64, or overrun pending; and what it cannot touch. -/

namespace Sys2Proof.Machine.State

/-- The three outcomes of an offer. -/
theorem offer_cases (s : State) (m : MasterId) (f : OutFrame) :
    s.offer m f = s ∨
    ((s.port m).queue.length < Config.queueSize ∧ (s.port m).overrun = false ∧ s.offer m f = s.enqueue m f) ∨
    s.offer m f = s.modPort m fun p => { p with overrun := true } := by
  have le : Config.advisoryLimit ≤ Config.queueSize := by decide
  by_cases o : (s.port m).overrun = true
  · left; simp [offer, o]
  · simp only [Bool.not_eq_true] at o
    simp only [offer, o, Bool.false_eq_true, if_false]
    cases (s.port m).link
    all_goals simp only
    all_goals first
      | exact Or.inl trivial
      | (split_ifs with a b c
         all_goals first
           | (left; rfl)
           | (right; left; exact ⟨by omega, trivial, rfl⟩)
           | (right; right; rfl))

/-- An offer changes one port, and of it the queue and overrun pending. -/
theorem offer_eq (s : State) (m : MasterId) (f : OutFrame) :
    ∃ q o, s.offer m f = s.modPort m fun p => { p with queue := q, overrun := o } := by
  rcases offer_cases s m f with h | ⟨_, _, h⟩ | h
  · exact ⟨(s.port m).queue, (s.port m).overrun, by
      rw [h]; simp only [modPort, port]; rw [show ({ look s.ports m with
        queue := (look s.ports m).queue, overrun := (look s.ports m).overrun } : Port) = look s.ports m from rfl,
        put_look]⟩
  · exact ⟨(s.port m).queue ++ [f], (s.port m).overrun, by rw [h]; rfl⟩
  · exact ⟨(s.port m).queue, true, by rw [h]; rfl⟩

@[simp] theorem radio_offer (s : State) (m : MasterId) (f : OutFrame) : (s.offer m f).radio = s.radio := by
  obtain ⟨q, o, h⟩ := offer_eq s m f; rw [h]; rfl
@[simp] theorem intake_offer (s : State) (m : MasterId) (f : OutFrame) : (s.offer m f).intake = s.intake := by
  obtain ⟨q, o, h⟩ := offer_eq s m f; rw [h]; rfl
@[simp] theorem pool_offer (s : State) (m : MasterId) (f : OutFrame) : (s.offer m f).pool = s.pool := by
  obtain ⟨q, o, h⟩ := offer_eq s m f; rw [h]; rfl
@[simp] theorem table_offer (s : State) (m : MasterId) (f : OutFrame) : (s.offer m f).table = s.table := by
  obtain ⟨q, o, h⟩ := offer_eq s m f; rw [h]; rfl
@[simp] theorem engine_offer (s : State) (m : MasterId) (f : OutFrame) : (s.offer m f).engine = s.engine := by
  obtain ⟨q, o, h⟩ := offer_eq s m f; rw [h]; rfl
@[simp] theorem waiting_offer (s : State) (m : MasterId) (f : OutFrame) : (s.offer m f).waiting = s.waiting := by
  obtain ⟨q, o, h⟩ := offer_eq s m f; rw [h]; rfl
@[simp] theorem recallUnit_offer (s : State) (m : MasterId) (f : OutFrame) : (s.offer m f).recallUnit = s.recallUnit := by
  obtain ⟨q, o, h⟩ := offer_eq s m f; rw [h]; rfl
@[simp] theorem epoch_offer (s : State) (m : MasterId) (f : OutFrame) : (s.offer m f).epoch = s.epoch := by
  obtain ⟨q, o, h⟩ := offer_eq s m f; rw [h]; rfl
@[simp] theorem responder_offer (s : State) (m : MasterId) (f : OutFrame) : (s.offer m f).responder = s.responder := by
  obtain ⟨q, o, h⟩ := offer_eq s m f; rw [h]; rfl
@[simp] theorem resetHeld_offer (s : State) (m : MasterId) (f : OutFrame) : (s.offer m f).resetHeld = s.resetHeld := by
  obtain ⟨q, o, h⟩ := offer_eq s m f; rw [h]; rfl
@[simp] theorem pending_offer (s : State) (m : MasterId) (f : OutFrame) : (s.offer m f).pending = s.pending := by
  obtain ⟨q, o, h⟩ := offer_eq s m f; rw [h]; rfl

/-- The other ports are as they were. -/
theorem port_offer_ne (s : State) {m j : MasterId} (h : j ≠ m) (f : OutFrame) :
    (s.offer m f).port j = s.port j := by
  obtain ⟨q, o, e⟩ := offer_eq s m f; rw [e]; exact port_modPort_ne s h _

/-- Of the port itself all but the queue and overrun pending is as it was. -/
theorem port_offer_same (s : State) (m : MasterId) (f : OutFrame) :
    ∃ q o, (s.offer m f).port m = { s.port m with queue := q, overrun := o } := by
  obtain ⟨q, o, e⟩ := offer_eq s m f; exact ⟨q, o, by rw [e]; simp⟩

/-- R152, UP or STALE: an answer or action notice joins the tail of a queue that holds fewer than 64. -/
theorem offer_taken (s : State) (m : MasterId) (f : OutFrame) (o : (s.port m).overrun = false)
    (up : (s.port m).link = .up ∨ (s.port m).link = .stale) (a : f.isAdvisory = false)
    (room : (s.port m).queue.length < Config.queueSize) : s.offer m f = s.enqueue m f := by
  rcases up with up | up <;> simp [offer, o, up, a, room]

end Sys2Proof.Machine.State
end

