-- ==== Sys2Proof/Laws/Works.lean ====
section
/-! SUPPORT. What the engine's work can do to the state, said once: `Works s t` when `t` comes from `s` by the updates
below, each with the condition under which the engine makes it. Every operation of a claim, of its continuation and of a
hand-off is of this kind; a property of states is kept by all of them when each update keeps it. -/

namespace Sys2Proof.Machine

/-- No list of the store has gained an entry or changed its order. -/
structure Waiting.Shrinks (w v : Waiting) : Prop where
  e : v.eList.Sublist w.eList
  p1 : ∀ m, (look v.p1Lists m).Sublist (look w.p1Lists m)
  p2 : ∀ m, (look v.p2Lists m).Sublist (look w.p2Lists m)

/-- The engine's work, update by update. -/
inductive Works (s : State) : State → Prop where
  | refl : Works s s
  | offer {t} (h : Works s t) (m : MasterId) (f : OutFrame) : Works s (t.offer m f)
  | flags {t} (h : Works s t) (m : MasterId) (f : FaultFlags → FaultFlags) :
      Works s (t.modPort m fun p => { p with flags := f p.flags })
  | quota {t} (h : Works s t) (m : MasterId) (b : Bool) : Works s (t.modMaster m fun r => { r with quotaExcess := b })
  | stats {t} (h : Works s t) (m : MasterId) (f : Stats → Stats) : Works s (t.modStats m f)
  | counters {t} (h : Works s t) (f : Counters → Counters) : Works s (t.modCounters f)
  | engine {t} (h : Works s t) (f : Engine → Engine) : Works s (t.modEngine f)
  /-- Cases and shed records change; every case keeps its place in the age order. -/
  | cases {t} (h : Works s t) (r : Recall) (e : t.recallUnit.AgeAgrees → r.AgeAgrees) :
      Works s { t with recallUnit := r }
  | carrier {t} (h : Works s t) (c : CarrierId) (f : Carrier → Carrier) (e : ∀ k, (f k).skeleton = k.skeleton) :
      Works s (t.modCarrier c f)
  /-- Entries leave the store. -/
  | leave {t} (h : Works s t) (f : Waiting → Waiting) (e : t.waiting.Shrinks (f t.waiting)) : Works s (t.modWaiting f)
  /-- An entry joins one end of its list, space having been found (R71). -/
  | joinTail {t} (h : Works s t) (l : Level) (m : MasterId) (w : WaitEntry) (e : t.storeHasSpace l = true) :
      Works s (t.modList l m fun x => x ++ [w])
  | joinHead {t} (h : Works s t) (l : Level) (m : MasterId) (w : WaitEntry) (e : t.storeHasSpace l = true) :
      Works s (t.modList l m fun x => w :: x)
  /-- A grant's record changes. -/
  | regrant {t} (h : Works s t) (k : Handle) (g : Grant) (e : (t.grantAt k).isSome = true) : Works s (t.setGrant k g)
  /-- A grant is put into the entry at the head of the free queue. -/
  | place {t} (h : Works s t) (i : GrantIndex) (rest : List GrantIndex) (g : Grant)
      (e : t.table.freeQueue = i :: rest) :
      Works s ((t.setGrant ⟨(look t.table.entries i).gen, i⟩ g).setFreeQueue rest)
  /-- An entry becomes FREE. -/
  | recycle {t} (h : Works s t) (i : GrantIndex) (e : (look t.table.entries i).grant.isSome = true) :
      Works s ((t.setEntry i ⟨(look t.table.entries i).gen + 1, none⟩).setFreeQueue (t.table.freeQueue ++ [i]))
  /-- A tombstone list grows no longer than 16, or than it was at first. -/
  | tombstones {t} (h : Works s t) (m : MasterId) (f : List Handle → List Handle)
      (e : (f (look t.table.tombstones m)).length ≤ max 16 (look s.table.tombstones m).length) :
      Works s (t.modTombstones m f)

namespace Works

/-- R60: work leaves a tombstone list at 16 or fewer, or no longer than it was. -/
theorem tombstones_le {s t : State} (h : Works s t) (m : MasterId) :
    (look t.table.tombstones m).length ≤ max 16 (look s.table.tombstones m).length := by
  induction h with
  | refl => exact le_max_right _ _
  | tombstones _ j f e ih =>
    simp only [State.table_modTombstones, look_put]
    split_ifs with c
    · subst c; exact e
    · exact ih
  | offer _ j f ih => simpa using ih
  | _ => assumption

theorem trans {s t u : State} (h : Works s t) (k : Works t u) : Works s u := by
  induction k with
  | refl => exact h
  | offer _ m f ih => exact ih.offer m f
  | flags _ m f ih => exact ih.flags m f
  | quota _ m b ih => exact ih.quota m b
  | stats _ m f ih => exact ih.stats m f
  | counters _ f ih => exact ih.counters f
  | engine _ f ih => exact ih.engine f
  | cases _ r e ih => exact ih.cases r e
  | carrier _ c f e ih => exact ih.carrier c f e
  | leave _ f e ih => exact ih.leave f e
  | joinTail _ l m w e ih => exact ih.joinTail l m w e
  | joinHead _ l m w e ih => exact ih.joinHead l m w e
  | regrant _ k g e ih => exact ih.regrant k g e
  | place _ i rest g e ih => exact ih.place i rest g e
  | recycle _ i e ih => exact ih.recycle i e
  | tombstones _ m f e ih =>
    exact ih.tombstones m f (e.trans (by have := tombstones_le h m; omega))

theorem foldl {α : Type} (f : State → α → State) (e : ∀ s x, Works s (f s x)) :
    ∀ (l : List α) (s : State), Works s (l.foldl f s)
  | [], _ => .refl
  | x :: l, s => (e s x).trans (foldl f e l (f s x))

end Works

namespace State

theorem skeleton_modPort (s : State) (m : MasterId) (f : Port → Port)
    (h : ∀ p, (f p).skeleton = p.skeleton) : (s.modPort m f).skeleton = s.skeleton := by
  simp [skeleton, map_put_of_eq, h]

theorem skeleton_modCarrier (s : State) (c : CarrierId) (f : Carrier → Carrier)
    (h : ∀ p, (f p).skeleton = p.skeleton) : (s.modCarrier c f).skeleton = s.skeleton := by
  simp [skeleton, map_put_of_eq, h]

theorem skeleton_modMaster (s : State) (m : MasterId) (f : MasterRecord → MasterRecord)
    (h : ∀ p, (f p).skeleton = p.skeleton) : (s.modMaster m f).skeleton = s.skeleton := by
  simp [skeleton, map_put_of_eq, h]

@[simp] theorem skeleton_offer (s : State) (m : MasterId) (f : OutFrame) : (s.offer m f).skeleton = s.skeleton := by
  obtain ⟨q, o, e⟩ := offer_eq s m f
  rw [e]
  exact skeleton_modPort _ _ _ fun _ => rfl

/-! ### Frames, flags and counts -/

theorem works_offerAll (s : State) (f : OutFrame) : Works s (s.offerAll f) :=
  Works.foldl _ (fun _ m => .offer .refl m f) _ _

theorem works_refuse (s : State) (m : MasterId) (tag : Half) (o : AnswerCode) : Works s (s.refuse m tag o) := by
  unfold refuse answer countRefused
  exact .stats (.offer .refl _ _) _ _

theorem works_reportQueued (s : State) (l : Level) : Works s (s.reportQueued l) := by
  cases l <;> unfold reportQueued <;> first | exact .refl | exact .counters .refl _

theorem works_addDue (s : State) (c : CarrierId) : Works s (s.addDue c) := .engine .refl _

theorem works_returnUnits (s : State) (c : CarrierId) (u : Nat) : Works s (s.returnUnits c u) := by
  unfold returnUnits
  split_ifs
  · exact .refl
  · exact works_addDue _ _

theorem works_setFault (s : State) (m : MasterId) (f : FaultFlag) : Works s (s.setFault m f) := by
  unfold setFault
  split_ifs
  · exact .refl
  · exact .offer (.flags .refl m fun x => x.insert f) _ _

theorem works_evalQuotaOf (s : State) (m : MasterId) : Works s (s.evalQuotaOf m) := by
  simp only [evalQuotaOf]
  split_ifs
  · exact .refl
  · exact (Works.quota .refl m _).trans (works_setFault _ _ _)
  · exact .quota .refl m _

theorem works_evalQuota (s : State) : Works s s.evalQuota := Works.foldl _ works_evalQuotaOf _ _

theorem works_endEpisode (s : State) (c : CarrierId) : Works s (s.endEpisode c) :=
  (Works.carrier .refl c (fun k => { k with isOver := false, marks := [] }) fun _ => rfl).trans (works_addDue _ _)

theorem works_evalOverOf (s : State) (c : CarrierId) : Works s (s.evalOverOf c) := by
  unfold evalOverOf
  split_ifs
  · exact works_endEpisode _ _
  · exact .refl

theorem works_closeClaim (s : State) : Works s s.closeClaim :=
  ((Works.foldl _ works_evalOverOf _ _).engine _).trans (works_evalQuota _)

/-! ### Grants and cases -/

theorem ageAgrees_put {r : Recall} (k : CaseId) (x : Option Case) (e : x.isSome = true ↔ k ∈ r.age)
    (h : r.AgeAgrees) : ({ r with cases := put r.cases k x } : Recall).AgeAgrees := by
  refine ⟨h.1, fun j => ?_⟩
  rw [look_put]
  split_ifs with c
  · subst c; exact e.symm
  · exact h.2 j

/-- A case's record changes. -/
theorem works_modCase (s : State) (k : CaseId) (f : Case → Case) : Works s (s.modCase k f) :=
  .cases .refl _ fun h => ageAgrees_put k _ (by rw [h.2 k, Option.isSome_map]) h

theorem works_modShed (s : State) (c : CarrierId) (f : ShedRecord → ShedRecord) : Works s (s.modShed c f) :=
  .cases .refl _ fun h => h

theorem works_unlist (s : State) (c : CarrierId) (h : Handle) : Works s (s.unlist c h) :=
  .carrier .refl c _ fun _ => rfl

theorem works_giveUnits (s : State) (c : CarrierId) (u : Nat) (d : UnitsTo) : Works s (s.giveUnits c u d) := by
  cases d
  · exact works_returnUnits _ _ _
  · exact works_modCase _ _ _
  · exact .refl

theorem works_markAttached (s : State) (h : Handle) (v : VictimState) (k : Option CaseId) :
    Works s (s.markAttached h v k) := by
  cases k
  · exact .refl
  · exact works_modCase _ _ _

/-- Units leave a grant's carrier; the table is not touched. -/
theorem works_leaveCarrier (s : State) (c : CarrierId) (h : Handle) (u : Nat) (d : UnitsTo) (v : VictimState)
    (k : Option CaseId) : Works s (((s.unlist c h).giveUnits c u d).markAttached h v k) :=
  ((works_unlist _ _ _).trans (works_giveUnits _ _ _ _)).trans (works_markAttached _ _ _ _)

@[simp] theorem table_returnUnits (s : State) (c : CarrierId) (u : Nat) : (s.returnUnits c u).table = s.table := by
  unfold returnUnits; split_ifs <;> rfl

@[simp] theorem table_giveUnits (s : State) (c : CarrierId) (u : Nat) (d : UnitsTo) :
    (s.giveUnits c u d).table = s.table := by cases d <;> simp [giveUnits, addEarmark]

@[simp] theorem table_markAttached (s : State) (h : Handle) (v : VictimState) (k : Option CaseId) :
    (s.markAttached h v k).table = s.table := by cases k <;> simp [markAttached, markVictim]

@[simp] theorem table_unlist (s : State) (c : CarrierId) (h : Handle) : (s.unlist c h).table = s.table := rfl

@[simp] theorem table_recycle (s : State) (i : GrantIndex) :
    (s.recycle i).table =
      { s.table with entries := put s.table.entries i ⟨(look s.table.entries i).gen + 1, none⟩,
                     freeQueue := s.table.freeQueue ++ [i] } := by
  simp only [State.recycle]; split_ifs <;> rfl

theorem works_recycle (s : State) (i : GrantIndex) (e : (look s.table.entries i).grant.isSome = true) :
    Works s (s.recycle i) := by
  simp only [State.recycle]
  split_ifs
  · exact .recycle .refl i e
  · exact (Works.recycle .refl i e).engine _

/-- A matching handle's entry is not FREE (R44). -/
theorem entry_of_grantAt {s : State} {h : Handle} {g : Grant} (e : s.grantAt h = some g) :
    (look s.table.entries h.index).grant = some g ∧ (look s.table.entries h.index).gen = h.gen := by
  simp only [grantAt] at e
  split_ifs at e with c
  exact ⟨e, c⟩

theorem length_erase_le_max (l : List Handle) (h : Handle) : (l.erase h).length ≤ max 16 l.length :=
  le_trans List.length_erase_le (le_max_right _ _)

theorem works_freeGrant (s : State) (h : Handle) : Works s (s.freeGrant h) := by
  unfold freeGrant
  split
  · exact .refl
  · next g e =>
    have some_ := (entry_of_grantAt e).1
    split
    · exact (Works.tombstones .refl _ _ (length_erase_le_max _ _)).trans (works_recycle _ _ (by simp [some_]))
    all_goals exact (works_leaveCarrier _ _ _ _ _ _ _).trans (works_recycle _ _ (by simp [some_]))

/-- Freeing a grant lengthens no tombstone list. -/
theorem tombstones_freeGrant (s : State) (h : Handle) (m : MasterId) :
    (look (s.freeGrant h).table.tombstones m).length ≤ (look s.table.tombstones m).length := by
  unfold freeGrant
  split
  · exact le_rfl
  · split
    · simp only [table_recycle, table_modTombstones, look_put]
      split_ifs with c
      · subst c; exact List.length_erase_le
      · exact le_rfl
    all_goals simp

theorem works_addTombstone (s : State) (m : MasterId) (h : Handle) : Works s (s.addTombstone m h) := by
  simp only [addTombstone]
  split
  · next e => exact .tombstones .refl _ _ (by simp [e])
  · next oldest rest e =>
    split_ifs with c
    · refine .tombstones .refl _ _ ?_
      simp only [e, List.length_append, List.length_cons, List.length_nil, Config.tombstoneLimit] at *
      omega
    · have shorter := tombstones_freeGrant (s.modTombstones m fun _ => rest) oldest m
      have base : Works s ((s.modTombstones m fun _ => rest).freeGrant oldest) :=
        (Works.tombstones .refl m (fun _ => rest) (by simp only [e, List.length_cons]; omega)).trans
          (works_freeGrant _ _)
      refine base.tombstones m _ ?_
      simp only [table_modTombstones, look_put_same, List.length_append, List.length_cons, List.length_nil, e] at *
      omega

theorem works_revoke (s : State) (h : Handle) (c : RevokeCause) (d : UnitsTo) : Works s (s.revoke h c d) := by
  unfold revoke
  split
  · exact .refl
  · next g e =>
    have some_ : (s.grantAt h).isSome = true := by simp [e]
    unfold countRevoked
    exact .stats (.offer (((Works.regrant .refl h _ some_).trans (works_leaveCarrier _ _ _ _ _ _ _)).trans
      (works_addTombstone _ _ _)) _ _) _ _

theorem works_createGrant (s : State) (r : Request) (c : CarrierId) : Works s (s.createGrant r c) := by
  unfold createGrant
  split
  · exact .refl
  · next i rest e =>
    unfold countAdmitted
    refine .stats (.offer ?_ _ _) _ _
    exact Works.carrier (.place .refl i rest _ e) c
      (fun k => { k with occupancy := k.occupancy ++ [⟨(look s.table.entries i).gen, i⟩] }) fun _ => rfl

theorem works_recallGrant (s : State) (h : Handle) (c : RecallCause) (k : Option CaseId) :
    Works s (s.recallGrant h c k) := by
  unfold recallGrant
  split
  · exact .refl
  · next g e =>
    unfold countRecalled
    exact .stats (.offer (.regrant .refl h _ (by simp [e])) _ _) _ _

theorem works_recallFor (s : State) (k : CaseId) (h : Handle) : Works s (s.recallFor k h) :=
  (works_recallGrant _ _ _ _).trans (works_modCase _ _ _)

theorem works_detachVictim (k : CaseId) (s : State) (v : Victim) : Works s (detachVictim k s v) := by
  unfold detachVictim
  split <;> try exact .refl
  split
  · exact .refl
  · next g e =>
    split <;> try exact .refl
    split_ifs
    · exact .regrant .refl _ _ (by simp [e])
    · exact .refl

theorem works_detachAll (s : State) (k : CaseId) (x : Case) : Works s (s.detachAll k x) :=
  Works.foldl _ (works_detachVictim k) _ _

@[simp] theorem recallUnit_detachVictim (k : CaseId) (s : State) (v : Victim) :
    (detachVictim k s v).recallUnit = s.recallUnit := by
  unfold detachVictim
  split <;> try rfl
  split <;> try rfl
  split <;> try rfl
  split_ifs <;> rfl

@[simp] theorem recallUnit_detachAll (s : State) (k : CaseId) (x : Case) :
    (s.detachAll k x).recallUnit = s.recallUnit := by
  unfold detachAll
  induction x.victims generalizing s with
  | nil => rfl
  | cons v l ih => simp [ih]

theorem works_freeCase (s : State) (k : CaseId) : Works s (s.freeCase k) := by
  refine .cases .refl _ fun h => ⟨h.1.filter _, fun j => ?_⟩
  simp only [State.recallUnit_setCase, look_put, List.mem_filter, h.2 j]
  split_ifs with c <;> simp [c]

theorem works_announceWaiting (s : State) (r : Request) : Works s (s.announceWaiting r) :=
  (Works.offer .refl _ _).trans (works_reportQueued _ _)

theorem works_joinTail (s : State) (r : Request) (e : s.storeHasSpace r.level = true) : Works s (s.joinTail r) :=
  (Works.joinTail .refl _ _ _ e).trans (works_announceWaiting _ _)

theorem works_joinHead (s : State) (r : Request) (e : s.storeHasSpace r.level = true) : Works s (s.joinHead r) :=
  (Works.joinHead .refl _ _ _ e).trans (works_announceWaiting _ _)

theorem works_settle (s : State) (k : CaseId) (x : Case) : Works s (s.settle k x) :=
  (((works_createGrant _ _ _).trans (works_detachAll _ _ _)).trans (works_freeCase _ _)).trans
    (works_returnUnits _ _ _)

theorem works_closeWithoutGrant (s : State) (k : CaseId) (x : Case) : Works s (s.closeWithoutGrant k x) := by
  have base : Works s (((s.detachAll k x).freeCase k).returnUnits x.target x.earmark) :=
    ((works_detachAll _ _ _).trans (works_freeCase _ _)).trans (works_returnUnits _ _ _)
  simp only [closeWithoutGrant]
  split_ifs with e
  · exact base.trans (works_joinHead _ _ e)
  · exact base.trans (works_refuse _ _ _ _)

theorem works_trySettle (s : State) (k : CaseId) : Works s (s.trySettle k) := by
  unfold trySettle
  split
  · exact .refl
  · split_ifs
    · exact .refl
    · exact works_settle _ _ _
    · exact works_closeWithoutGrant _ _ _

theorem works_trySettleAttached (s : State) (k : Option CaseId) : Works s (s.trySettleAttached k) := by
  cases k
  · exact .refl
  · exact works_trySettle _ _

theorem works_abandon (s : State) (k : CaseId) : Works s (s.abandon k) := by
  unfold abandon
  split
  · exact .refl
  · exact ((works_detachAll _ _ _).trans (works_freeCase _ _)).trans (works_returnUnits _ _ _)

/-! ### Case attempts -/

theorem works_admitDirectly (s : State) (r : Request) (p : Plan) : Works s (s.admitDirectly r p) :=
  ((Works.foldl _ (fun s h => works_revoke s h _ _) _ _).trans (works_createGrant _ _ _)).trans (works_addDue _ _)

/-- A case's record is filled: work, when its filling agrees with the age order. -/
theorem works_gather {s₀ : State} (s : State) (k : CaseId) (r : Request) (o : Time) (p : Plan)
    (e : ∀ x : Case, Works s₀ (s.setCase k (some x))) : Works s₀ (s.gather k r o p) :=
  ((e _).trans (Works.foldl _ (fun s h => works_revoke s h _ _) _ _)).trans
    (Works.foldl _ (fun s h => works_recallFor s k h) _ _)

theorem works_openCase (s : State) (k : CaseId) (r : Request) (p : Plan) (e : s.caseAt k = none) :
    Works s (s.openCase k r p) := by
  unfold openCase reportCaseOpened
  refine .counters (.offer (works_gather _ _ _ _ _ fun x => ?_) _ _) _
  refine .cases .refl { s.recallUnit with cases := put s.recallUnit.cases k (some x), age := s.recallUnit.age ++ [k] }
    fun h => ⟨?_, fun j => ?_⟩
  · exact List.nodup_append.mpr ⟨h.1, by simp, fun a ha b hb => by
      rw [List.mem_singleton] at hb
      rintro rfl
      subst hb
      have c := (h.2 _).mp ha
      rw [show look s.recallUnit.cases a = none from e] at c
      exact Bool.false_ne_true c⟩
  · rw [look_put, List.mem_append, List.mem_singleton, h.2 j]
    split_ifs with c <;> simp [c]

theorem works_caseAttempt {s t : State} {r : Request} (h : s.caseAttempt r = some t) : Works s t := by
  unfold caseAttempt at h
  split at h
  · cases h
  · next k e =>
    split at h
    · cases h
    · cases h
      split_ifs
      · exact works_admitDirectly _ _ _
      · exact works_openCase _ _ _ _ (by simpa using List.find?_some e)

theorem works_reportNoCapacity (s : State) (l : Level) : Works s (s.reportNoCapacity l) := .counters .refl _

theorem works_returnRequest (s : State) (r : Request) : Works s (s.returnRequest r) := by
  unfold returnRequest
  split_ifs with e
  · exact works_joinHead _ _ e
  · exact (works_refuse _ _ _ _).trans (works_reportNoCapacity _ _)

theorem works_retarget (s : State) (k : CaseId) (x : Case) (e : (s.caseAt k).isSome = true) :
    Works s (s.retarget k x) := by
  unfold retarget
  split
  · exact (works_freeCase _ _).trans (works_returnRequest _ _)
  · split_ifs
    · exact (works_freeCase _ _).trans (works_admitDirectly _ _ _)
    · exact works_gather _ _ _ _ _ fun _ => .cases .refl _ fun h =>
        ageAgrees_put k _ (by rw [h.2 k]; exact iff_of_true rfl e) h

/-! ### Offers -/

theorem works_topUp (c : CarrierId) (s : State) (k : CaseId) : Works s (topUp c s k) := by
  unfold topUp
  split
  · exact .refl
  · split_ifs
    · exact (works_modCase _ _ _).trans (works_trySettle _ _)
    · exact .refl

theorem works_topUpInTurn (c : CarrierId) : ∀ (l : List CaseId) (s : State), Works s (topUpInTurn c l s)
  | [], _ => .refl
  | k :: rest, s => by
    simp only [topUpInTurn]
    split_ifs
    · exact (works_topUp c s k).trans (works_topUpInTurn c rest _)
    · exact works_topUp c s k

theorem works_stage1 (s : State) (c : CarrierId) : Works s (s.stage1 c) := works_topUpInTurn c _ s

theorem works_popE (s : State) : Works s s.popE :=
  .leave .refl _ ⟨List.tail_sublist _, fun _ => .refl _, fun _ => .refl _⟩

theorem works_popOf (s : State) (l : Level) (m : MasterId) : Works s (s.popOf l m) := by
  unfold popOf modList
  refine .leave .refl _ ?_
  cases l
  · exact ⟨List.tail_sublist _, fun _ => .refl _, fun _ => .refl _⟩
  · refine ⟨.refl _, fun j => ?_, fun _ => .refl _⟩
    simp only [look_put]; split_ifs with e
    · subst e; exact List.tail_sublist _
    · exact .refl _
  · refine ⟨.refl _, fun _ => .refl _, fun j => ?_⟩
    simp only [look_put]; split_ifs with e
    · subst e; exact List.tail_sublist _
    · exact .refl _
  · exact ⟨.refl _, fun _ => .refl _, fun _ => .refl _⟩

theorem works_setPointer (s : State) (l : Level) (m : MasterId) : Works s (s.setPointer l m) := .engine .refl _

theorem works_stage2 (c : CarrierId) (a : Bool) : ∀ (n : Nat) (s : State), Works s (stage2 c a n s)
  | 0, _ => .refl
  | n + 1, s => by
    unfold stage2
    split
    · exact .refl
    · split_ifs
      · exact ((works_popE _).trans (works_createGrant _ _ _)).trans (works_stage2 c a n _)
      · split
        · exact .refl
        · next h => exact ((works_caseAttempt h).trans (works_popE _)).trans (works_stage2 c a n _)
      · exact .refl

theorem works_rotate (c : CarrierId) (l : Level) :
    ∀ (n : Nat) (m : MasterId) (k : Nat) (s : State), Works s (rotate c l n m k s)
  | 0, _, _, _ => .refl
  | n + 1, m, k, s => by
    unfold rotate
    split_ifs
    · exact .refl
    · split
      · exact works_rotate c l n _ _ _
      · split_ifs
        · exact (((works_popOf _ _ _).trans (works_createGrant _ _ _)).trans (works_setPointer _ _ _)).trans
            (works_rotate c l n _ _ _)
        · split
          · exact works_rotate c l n _ _ _
          · next h =>
            exact (((works_caseAttempt h).trans (works_popOf _ _ _)).trans (works_setPointer _ _ _)).trans
              (works_rotate c l n _ _ _)
        · exact works_rotate c l n _ _ _

theorem works_rotation (s : State) (c : CarrierId) (l : Level) : Works s (s.rotation c l) :=
  works_rotate _ _ _ _ _ _

theorem works_lists (s : State) (c : CarrierId) : Works s (s.lists c) := by
  simp only [lists]
  split_ifs
  · exact ((works_stage2 _ _ _ _).trans (works_rotation _ _ _)).trans (works_rotation _ _ _)
  · exact .refl

theorem works_runOffer (s : State) (c : CarrierId) : Works s (s.runOffer c) := by
  unfold runOffer
  split_ifs
  · exact .refl
  · exact (((works_stage1 _ _).trans (works_lists _ _)).engine _).trans (works_evalQuota _)

theorem works_drain : ∀ (n : Nat) (s : State), Works s (drain n s)
  | 0, _ => .refl
  | n + 1, s => by
    unfold drain
    split
    · exact .refl
    · exact ((Works.engine .refl _).trans (works_runOffer _ _)).trans (works_drain n _)

theorem works_tableRetry (s : State) : Works s s.tableRetry := by
  refine ((Works.engine .refl _).trans (Works.foldl _ ?_ _ _)).trans (works_evalQuota _)
  intro s c
  split_ifs
  · exact works_stage2 _ _ _ _
  · exact .refl

theorem works_continuation (s : State) : Works s s.continuation := by
  simp only [continuation]
  split_ifs
  · exact (works_drain _ _).trans (works_tableRetry _)
  · exact works_drain _ _

/-- What follows a claim is the engine's work (R12, R62). -/
theorem works_finish (s : State) : Works s s.finish := (works_closeClaim _).trans (works_continuation _)

/-! ### Hand-offs -/

theorem works_rollback (c : CarrierId) (s : State) (k : CaseId) : Works s (rollback c s k) := by
  unfold rollback
  split
  · exact .refl
  · next x e =>
    have some_ : (look (s.detachAll k x).recallUnit.cases k).isSome = true := by
      rw [recallUnit_detachAll]
      simp only [State.caseAt] at e
      simp [e]
    refine (((works_detachAll _ _ _).cases _ fun h => ageAgrees_put k _ (by rw [h.2 k]; simpa using some_) h).trans
      (works_modShed _ _ _)).trans (works_retarget _ _ _ ?_)
    simp [State.caseAt]

theorem works_shedHolds (c : CarrierId) :
    ∀ (l : List Listed) (d : Nat) (s : State), Works s (shedHolds c l d s).2
  | [], _, _ => .refl
  | g :: l, d, s => by
    unfold shedHolds
    split_ifs
    · exact .refl
    · exact ((works_revoke _ _ _ _).trans (works_modShed _ _ _)).trans (works_shedHolds c l _ _)

theorem works_shedActive (c : CarrierId) :
    ∀ (l : List Listed) (d : Nat) (s : State), Works s (shedActive c l d s).2
  | [], _, _ => .refl
  | g :: l, d, s => by
    unfold shedActive
    split_ifs
    · exact .refl
    · exact ((works_recallGrant _ _ _ _).trans (works_modShed _ _ _)).trans (works_shedActive c l _ _)

theorem works_advise (c : CarrierId) (s : State) (h : Handle) : Works s (advise c s h) := by
  unfold advise
  split
  · exact .refl
  · split_ifs
    · exact (Works.carrier (.offer .refl _ _) c (fun k => { k with marks := k.marks ++ [h] }) fun _ => rfl).trans
        (works_modShed _ _ _)
    · exact .refl

theorem works_adviseAll (s : State) (c : CarrierId) : Works s (s.adviseAll c) := Works.foldl _ (works_advise c) _ _

theorem works_shed (s : State) (c : CarrierId) : Works s (s.shed c) := by
  have base : Works s (s.modShed c fun r => { r with deficit := s.deficit c }) := works_modShed _ _ _
  simp only [shed]
  split_ifs
  · exact (base.trans (works_shedHolds _ _ _ _)).trans (works_shedActive _ _ _ _)
  · exact ((base.trans (works_shedHolds _ _ _ _)).trans (works_shedActive _ _ _ _)).trans (works_adviseAll _ _)

theorem works_closeHandOff (s : State) (c : CarrierId) : Works s (s.closeHandOff c) :=
  (works_evalOverOf _ _).trans (works_evalQuota _)

theorem works_beginEpisode (s : State) (c : CarrierId) : Works s (s.beginEpisode c) := by
  have base : Works s (s.modCarrier c fun k => { k with isOver := true }) :=
    .carrier .refl c (fun k => { k with isOver := true }) fun _ => rfl
  exact ((((base.trans (works_modShed _ _ _)).trans (Works.foldl _ (works_rollback c) _ _)).trans (works_shed _ _)).trans
    (works_closeHandOff _ _))

theorem works_handOffAgain (s : State) (c : CarrierId) : Works s (s.handOffAgain c) :=
  (works_shed _ _).trans (works_closeHandOff _ _)

/-- A capacity report is its reported value and then the engine's work (R10). -/
theorem works_serveReport (s : State) (c : CarrierId) (v : Nat) :
    Works (s.modCarrier c fun k => { k with reported := some (min v Config.maxNominal) }) (s.serveReport c v) := by
  simp only [serveReport]
  split_ifs
  · exact .refl
  · exact .refl
  · exact works_evalOverOf _ _
  · exact works_addDue _ _
  · exact works_handOffAgain _ _
  · exact works_beginEpisode _ _
  · exact .refl

/-! ### Link claims -/

theorem works_flushWaiting (s : State) (m : MasterId) : Works s (s.flushWaiting m) := by
  refine .leave .refl _ ⟨List.filter_sublist, fun j => ?_, fun j => ?_⟩
  all_goals simp only [look_put]; split_ifs
  all_goals first | exact List.nil_sublist _ | exact .refl _

theorem works_dropPending (s : State) (m : MasterId) : Works s (s.dropPending m) :=
  (works_flushWaiting _ _).trans (Works.foldl _ works_abandon _ _)

theorem works_meetFate (m : MasterId) (f : Grant → GrantFate) (s : State) (i : GrantIndex) :
    Works s (meetFate m f s i) := by
  unfold meetFate
  split
  · exact .refl
  · split_ifs
    · split
      · exact .refl
      · exact (works_freeGrant _ _).trans (works_trySettleAttached _ _)
      · exact (works_revoke _ _ _ _).trans (works_trySettleAttached _ _)
    · exact .refl

theorem works_linkClaim (s : State) (m : MasterId) (f : Grant → GrantFate) : Works s (s.linkClaim m f) :=
  Works.foldl _ (works_meetFate m f) _ _

/-! ### Admission -/

theorem works_waitOrRefuse (s : State) (r : Request) : Works s (s.waitOrRefuse r) := by
  unfold waitOrRefuse
  split_ifs with _ e
  · exact (works_refuse _ _ _ _).trans (works_reportNoCapacity _ _)
  · exact works_joinTail _ _ e
  · exact works_refuse _ _ _ _

theorem works_placeRequest (s : State) (r : Request) : Works s (s.placeRequest r) := by
  unfold placeRequest
  split
  · exact works_createGrant _ _ _
  · split
    · next h => split_ifs at h; exact works_caseAttempt h
    · exact works_waitOrRefuse _ _

theorem works_decideAdmission (s : State) (r : Request) : Works s (s.decideAdmission r) := by
  unfold decideAdmission
  split_ifs
  · exact works_refuse _ _ _ _
  · exact works_placeRequest _ _
  · exact works_waitOrRefuse _ _
  · exact works_refuse _ _ _ _

theorem works_handOn (s : State) (m : MasterId) (t : Half) (c : Fin 64) (k : ServiceClass) (u : Nat) (md : AdmitMode) :
    Works s (s.handOn m t c k u md) := (works_decideAdmission _ _).trans (works_finish _)

theorem works_tooLate (s : State) (m : MasterId) (tag : Half) (h : Handle) : Works s (s.tooLate m tag h) :=
  (Works.offer (works_freeGrant _ _) _ _).trans (works_finish _)

theorem works_serveCommit (s : State) (m : MasterId) (tag : Half) (h : Handle) (g : Grant)
    (e : s.grantAt h = some g) : Works s (s.serveCommit m tag h g) := by
  unfold serveCommit
  split
  · exact .offer (.regrant .refl _ _ (by simp [e])) _ _
  · exact .offer .refl _ _
  · exact .offer .refl _ _
  · exact works_tooLate _ _ _ _

theorem works_serveRelease (s : State) (m : MasterId) (tag : Half) (h : Handle) (g : Grant) :
    Works s (s.serveRelease m tag h g) := by
  unfold serveRelease answerHandle
  split
  · exact ((Works.offer (works_freeGrant _ _) _ _).trans (works_trySettleAttached _ _)).trans (works_finish _)
  · exact ((Works.offer (works_freeGrant _ _) _ _).trans (works_trySettleAttached _ _)).trans (works_finish _)
  · exact ((Works.offer (works_freeGrant _ _) _ _).trans (works_trySettleAttached _ _)).trans (works_finish _)
  · exact works_tooLate _ _ _ _

theorem works_withOwnGrant (s : State) (m : MasterId) (tag : Half) (h : Handle) (f : Grant → State)
    (e : ∀ g, s.grantAt h = some g → Works s (f g)) : Works s (s.withOwnGrant m tag h f) := by
  unfold withOwnGrant
  split
  · exact .offer .refl _ _
  · next g c =>
    split_ifs
    · exact e g c
    · exact (Works.offer .refl _ _).trans (works_setFault _ _ _)

theorem works_removeWaiting (s : State) (m : MasterId) (tag : Half) : Works s (s.removeWaiting m tag) := by
  refine .leave .refl _ ⟨List.filter_sublist, fun j => ?_, fun j => ?_⟩
  all_goals simp only [look_put]; split_ifs with c
  all_goals first | (subst c; exact List.filter_sublist) | exact .refl _

theorem works_answerCancelled (s : State) (m : MasterId) (tag target : Half) :
    Works s (s.answerCancelled m tag target) := (works_refuse _ _ _ _).offer _ _

theorem works_serveCancel (s : State) (m : MasterId) (tag target : Half) : Works s (s.serveCancel m tag target) := by
  unfold serveCancel
  split
  · exact (works_removeWaiting _ _ _).trans (works_answerCancelled _ _ _ _)
  · split
    · exact ((works_abandon _ _).trans (works_answerCancelled _ _ _ _)).trans (works_finish _)
    · exact .offer .refl _ _

theorem works_expireHold (s : State) (h : Handle) : Works s (s.expireHold h) := by
  unfold expireHold
  split
  · exact .refl
  · split
    · split_ifs
      · exact (works_revoke _ _ _ _).trans (works_finish _)
      · exact .refl
    all_goals exact .refl

theorem works_expireRecall (s : State) (h : Handle) : Works s (s.expireRecall h) := by
  unfold expireRecall
  split
  · exact .refl
  · split
    · split_ifs
      · exact ((works_revoke _ _ _ _).trans (works_trySettleAttached _ _)).trans (works_finish _)
      · exact .refl
    all_goals exact .refl

theorem works_expireWait (s : State) (m : MasterId) (tag : Half) : Works s (s.expireWait m tag) := by
  unfold expireWait
  split
  · exact .refl
  · split_ifs
    · exact (works_removeWaiting _ _ _).trans (works_refuse _ _ _ _)
    · exact .refl

end State

/-! ### What work keeps -/

namespace Works

/-- The skeleton is as it was. -/
theorem skeleton {s t : State} (h : Works s t) : t.skeleton = s.skeleton := by
  induction h with
  | refl => rfl
  | offer _ m f ih => exact (State.skeleton_offer _ m f).trans ih
  | flags _ m f ih => rw [State.skeleton_modPort _ _ _ (by intro p; rfl)]; exact ih
  | quota _ m b ih => rw [State.skeleton_modMaster _ _ _ (by intro p; rfl)]; exact ih
  | carrier _ c f e ih => exact (State.skeleton_modCarrier _ c f e).trans ih
  | _ => assumption

/-- Every outbound queue keeps its frames in front. -/
theorem queue {s t : State} (h : Works s t) (m : MasterId) : (s.port m).queue <+: (t.port m).queue := by
  induction h with
  | refl => exact List.prefix_rfl
  | offer _ j f ih =>
    refine ih.trans ?_
    rcases State.offer_cases _ j f with e | ⟨_, _, e⟩ | e
    · rw [e]
    · by_cases c : m = j
      · subst c; simp [e, State.enqueue]
      · rw [e, State.enqueue, State.port_modPort_ne _ c]
    · by_cases c : m = j
      · subst c; simp [e]
      · rw [e, State.port_modPort_ne _ c]
  | flags _ j f ih =>
    refine ih.trans ?_
    by_cases c : m = j
    · subst c; simp
    · rw [State.port_modPort_ne _ c]
  | _ => assumption

/-- No outbound queue grows past 64 (R152). -/
theorem queue_le {s t : State} (h : Works s t) (m : MasterId) (b : (s.port m).queue.length ≤ 64) :
    (t.port m).queue.length ≤ 64 := by
  induction h with
  | refl => exact b
  | offer _ j f ih =>
    rcases State.offer_cases _ j f with e | ⟨room, _, e⟩ | e <;> rw [e]
    · exact ih
    · by_cases c : m = j
      · subst c
        simp only [State.enqueue, State.port_modPort_same, List.length_append, List.length_cons, List.length_nil,
          Config.queueSize] at *
        omega
      · rw [State.enqueue, State.port_modPort_ne _ c]; exact ih
    · by_cases c : m = j
      · subst c; simpa using ih
      · rw [State.port_modPort_ne _ c]; exact ih
  | flags _ j f ih =>
    by_cases c : m = j
    · subst c; simpa using ih
    · rw [State.port_modPort_ne _ c]; exact ih
  | _ => assumption

end Works

end Sys2Proof.Machine
end

