-- ==== Sys2Proof/Laws/Kept.lean ====
section
/-! SUPPORT. The engine's work keeps the bounds of the waiting store (R71), the tombstone lists (R60) and the free queue
(R45); what equal skeletons have in common. -/

namespace Sys2Proof.Machine

/-- The lengths of four lists, summed. -/
theorem sum_of_four (v : Vector (List WaitEntry) 4) :
    (v.toList.map List.length).sum =
      (look v 0).length + (look v 1).length + (look v 2).length + (look v 3).length := by
  rcases v with ⟨⟨l⟩, h⟩
  match l, h with
  | [a, b, c, d], _ => simp [look]; omega

theorem priorityCount_eq (s : State) :
    s.priorityCount =
      ((look s.waiting.p1Lists 0).length + (look s.waiting.p1Lists 1).length + (look s.waiting.p1Lists 2).length +
        (look s.waiting.p1Lists 3).length) +
      ((look s.waiting.p2Lists 0).length + (look s.waiting.p2Lists 1).length + (look s.waiting.p2Lists 2).length +
        (look s.waiting.p2Lists 3).length) := by
  simp only [State.priorityCount, sum_of_four]

/-- A list replaced by one that is longer by one makes the sum greater by one. -/
theorem sum_put_succ (v : Vector (List WaitEntry) 4) (m : MasterId) (l : List WaitEntry)
    (e : l.length = (look v m).length + 1) :
    ((put v m l).toList.map List.length).sum = (v.toList.map List.length).sum + 1 := by
  simp only [sum_of_four, look_put]
  match m with
  | 0 => simp at *; omega
  | 1 => simp at *; omega
  | 2 => simp at *; omega
  | 3 => simp at *; omega

namespace Works

theorem tombstonesBounded {s t : State} (h : Works s t) (b : s.TombstonesBounded) : t.TombstonesBounded := by
  intro m
  have := h.tombstones_le m
  have := b m
  omega

theorem storeBounded_of_shrinks {s : State} (f : Waiting → Waiting) (e : s.waiting.Shrinks (f s.waiting))
    (b : s.StoreBounded) : (s.modWaiting f).StoreBounded := by
  have p1 := fun m => (e.p1 m).length_le
  have p2 := fun m => (e.p2 m).length_le
  have l := e.e.length_le
  have a := p1 0; have a1 := p1 1; have a2 := p1 2; have a3 := p1 3
  have c := p2 0; have c1 := p2 1; have c2 := p2 2; have c3 := p2 3
  simp only [State.StoreBounded, State.storeCount, priorityCount_eq, State.waiting_modWaiting] at *
  omega

theorem storeBounded_of_join {s : State} (l : Level) (m : MasterId) (f : List WaitEntry → List WaitEntry)
    (g : ∀ x, (f x).length = x.length + 1) (e : s.storeHasSpace l = true) (b : s.StoreBounded) :
    (s.modList l m f).StoreBounded := by
  cases l
  case p3 => cases e
  all_goals
    simp only [State.storeHasSpace, Bool.and_eq_true, decide_eq_true_eq] at e
    simp only [Config.storeSize, Config.priorityStoreSize, State.StoreBounded, State.storeCount, State.priorityCount, State.modList, State.waiting_modWaiting,
      sum_put_succ _ m _ (g _), g] at *
    omega

theorem storeBounded {s t : State} (h : Works s t) (b : s.StoreBounded) : t.StoreBounded := by
  induction h with
  | refl => exact b
  | offer _ m f ih => simpa [State.StoreBounded, State.storeCount, State.priorityCount] using ih
  | leave _ f e ih => exact storeBounded_of_shrinks f e ih
  | joinTail _ l m w e ih => exact storeBounded_of_join l m _ (by simp) e ih
  | joinHead _ l m w e ih => exact storeBounded_of_join l m _ (by simp) e ih
  | _ => assumption

theorem ageAgrees {s t : State} (h : Works s t) (b : s.recallUnit.AgeAgrees) : t.recallUnit.AgeAgrees := by
  induction h with
  | refl => exact b
  | offer _ m f ih => simpa using ih
  | cases _ r e ih => exact e ih
  | _ => assumption

theorem freeQueueAgrees {s t : State} (h : Works s t) (b : s.FreeQueueAgrees) : t.FreeQueueAgrees := by
  induction h with
  | refl => exact b
  | offer _ m f ih => simpa [State.FreeQueueAgrees] using ih
  | @regrant t _ k g e ih =>
    refine ⟨ih.1, fun i => ?_⟩
    rw [State.table_setGrant, look_put]
    split_ifs with c
    · subst c
      have some_ : (look t.table.entries k.index).grant ≠ none := by
        obtain ⟨g', e'⟩ := Option.isSome_iff_exists.mp e
        simp [(State.entry_of_grantAt e').1]
      simp only [iff_false]
      exact fun c => some_ ((ih.2 _).mp c)
    · exact ih.2 i
  | @place t _ i rest g e ih =>
    have nd := ih.1
    rw [e] at nd
    refine ⟨(List.nodup_cons.mp nd).2, fun j => ?_⟩
    have old := ih.2 j
    rw [e] at old
    simp only [State.table_setFreeQueue, State.table_setGrant, look_put]
    split_ifs with c
    · subst c; simpa using (List.nodup_cons.mp nd).1
    · simpa [c] using old
  | @recycle t _ i e ih =>
    have out : i ∉ t.table.freeQueue := fun c => by simp [(ih.2 i).mp c] at e
    refine ⟨?_, fun j => ?_⟩
    · simp only [State.table_setFreeQueue]
      exact List.nodup_append.mpr ⟨ih.1, by simp, fun a ha b hb => by
        simp only [List.mem_singleton] at hb; subst hb; rintro rfl; exact out ha⟩
    · simp only [State.table_setFreeQueue, State.table_setEntry, look_put, List.mem_append, List.mem_singleton]
      split_ifs with c
      · simp [c]
      · simpa [c] using ih.2 j
  | _ => assumption

end Works

/-! ### Equal skeletons -/

theorem port_of_skeleton {s t : State} (h : t.skeleton = s.skeleton) (m : MasterId) :
    (t.port m).skeleton = (s.port m).skeleton := by
  have e : t.ports.map Port.skeleton = s.ports.map Port.skeleton := congrArg State.ports h
  simpa [State.port] using congrArg (fun v => look v m) e

theorem carrier_of_skeleton {s t : State} (h : t.skeleton = s.skeleton) (c : CarrierId) :
    (t.carrier c).skeleton = (s.carrier c).skeleton := by
  have e : t.pool.carriers.map Carrier.skeleton = s.pool.carriers.map Carrier.skeleton :=
    congrArg (fun u => u.pool.carriers) h
  simpa [State.carrier] using congrArg (fun v => look v c) e

theorem master_of_skeleton {s t : State} (h : t.skeleton = s.skeleton) (m : MasterId) :
    (t.master m).skeleton = (s.master m).skeleton := by
  have e : t.pool.masters.map MasterRecord.skeleton = s.pool.masters.map MasterRecord.skeleton :=
    congrArg (fun u => u.pool.masters) h
  simpa [State.master] using congrArg (fun v => look v m) e

theorem radio_of_skeleton {s t : State} (h : t.skeleton = s.skeleton) : t.radio = s.radio := by
  have := congrArg State.radio h
  exact this

theorem intake_of_skeleton {s t : State} (h : t.skeleton = s.skeleton) : t.intake = s.intake := by
  have := congrArg State.intake h
  exact this

theorem level_of_skeleton {s t : State} (h : t.skeleton = s.skeleton) : t.epoch.level = s.epoch.level :=
  congrArg (fun u => u.epoch.level) h

end Sys2Proof.Machine
end

