-- ==== Sys2Proof/Laws/Continuation.lean ====
section
/-! SUPPORT. Why a continuation ends (log 22): what each operation of an offer adds to, or takes from, the due list, the
waiting store, the case table and the entries in use; and the laws of `drain` and `continuation` that follow. -/

namespace Sys2Proof.Machine

theorem countP_put {α : Type} {n : Nat} (p : α → Bool) (v : Vector α n) (i : Fin n) (x : α) :
    (put v i x).toList.countP p + (if p (look v i) then 1 else 0) = v.toList.countP p + if p x then 1 else 0 := by
  have h : i.val < v.toList.length := by simp
  have e : v.toList[i.val] = look v i := by simp [look]
  have pos : (if p (look v i) then 1 else 0) ≤ v.toList.countP p := by
    split_ifs with c
    · exact List.countP_pos_iff.mpr ⟨_, List.getElem_mem h, by rw [e]; exact c⟩
    · exact Nat.zero_le _
  rw [put, Vector.toList_set, List.countP_set h, e]
  omega

namespace State

/-- The entries that hold a grant. -/
def usedEntries (s : State) : Nat := s.table.entries.toList.countP fun e => e.grant.isSome

/-- The entries of the due list but for carrier c. -/
def othersDue (s : State) (c : CarrierId) : Nat := (s.engine.due.filter (· ≠ c)).length

/-- What an offer on c may use up. -/
def spare (c : CarrierId) (s : State) : Nat := s.othersDue c + 2 * (s.storeCount + s.caseCount) + s.usedEntries

theorem caseCount_eq (s : State) : s.caseCount = s.recallUnit.cases.toList.countP Option.isSome :=
  (List.countP_eq_length_filter).symm

theorem usedEntries_le (s : State) : s.usedEntries ≤ 1024 := by
  unfold usedEntries
  exact le_trans List.countP_le_length (by simp)

/-- What `spare` reads. -/
theorem spare_congr {c : CarrierId} {s t : State} (d : t.engine.due = s.engine.due) (w : t.waiting = s.waiting)
    (k : t.recallUnit.cases = s.recallUnit.cases) (e : t.table.entries = s.table.entries) : spare c t = spare c s := by
  simp only [spare, othersDue, storeCount, priorityCount, caseCount, usedEntries, d, w, k, e]

/-! ### The due list, the cases, the entries -/

@[simp] theorem spare_addDue_same (c : CarrierId) (s : State) : spare c (s.addDue c) = spare c s := by
  unfold addDue
  by_cases h : c ∈ s.engine.due
  all_goals simp [spare, othersDue, storeCount, priorityCount, caseCount, usedEntries, h]

theorem spare_addDue (c d : CarrierId) (s : State) : spare c (s.addDue d) ≤ spare c s + 1 := by
  by_cases e : d = c
  · subst e; simp
  · unfold addDue
    by_cases h : d ∈ s.engine.due
    all_goals simp [spare, othersDue, storeCount, priorityCount, caseCount, usedEntries, h, e]
    omega

@[simp] theorem spare_returnUnits_same (c : CarrierId) (s : State) (u : Nat) : spare c (s.returnUnits c u) = spare c s := by
  unfold returnUnits; split_ifs <;> simp

theorem spare_returnUnits (c d : CarrierId) (s : State) (u : Nat) : spare c (s.returnUnits d u) ≤ spare c s + 1 := by
  unfold returnUnits
  split_ifs
  · omega
  · exact spare_addDue _ _ _

theorem spare_setCase (c : CarrierId) (s : State) (k : CaseId) (x : Option Case) :
    spare c (s.setCase k x) + (if (s.caseAt k).isSome then 2 else 0) = spare c s + if x.isSome then 2 else 0 := by
  have h := countP_put Option.isSome s.recallUnit.cases k x
  simp only [spare, othersDue, storeCount, priorityCount, usedEntries, caseCount_eq, engine_setCase, waiting_setCase,
    recallUnit_setCase, table_setCase, caseAt] at *
  by_cases a : (look s.recallUnit.cases k).isSome = true <;> by_cases b : x.isSome = true <;>
    simp only [a, b, Bool.false_eq_true, if_true, if_false] at * <;> omega

@[simp] theorem spare_modCase (c : CarrierId) (s : State) (k : CaseId) (f : Case → Case) :
    spare c (s.modCase k f) = spare c s := by
  have h := spare_setCase c s k ((look s.recallUnit.cases k).map f)
  rw [Option.isSome_map] at h
  exact Nat.add_right_cancel h

theorem spare_setEntry (c : CarrierId) (s : State) (i : GrantIndex) (e : Entry) :
    spare c (s.setEntry i e) + (if (look s.table.entries i).grant.isSome then 1 else 0) =
      spare c s + if e.grant.isSome then 1 else 0 := by
  have h := countP_put (fun e => e.grant.isSome) s.table.entries i e
  simp only [spare, othersDue, storeCount, priorityCount, usedEntries, caseCount, engine_setEntry, waiting_setEntry,
    recallUnit_setEntry, table_setEntry] at *
  omega

theorem spare_setGrant_le (c : CarrierId) (s : State) (h : Handle) (g : Grant) :
    spare c (s.setGrant h g) ≤ spare c s + 1 := by
  have := spare_setEntry c s h.index { look s.table.entries h.index with grant := some g }
  simp only [Option.isSome_some, if_true] at this
  exact Nat.le_trans (Nat.le_add_right _ _) (Nat.le_of_eq this)

theorem spare_setGrant {s : State} {h : Handle} {g₀ : Grant} (e : s.grantAt h = some g₀) (c : CarrierId) (g : Grant) :
    spare c (s.setGrant h g) = spare c s := by
  have := spare_setEntry c s h.index { look s.table.entries h.index with grant := some g }
  rw [show (look s.table.entries h.index).grant.isSome = true by simp [(entry_of_grantAt e).1]] at this
  exact Nat.add_right_cancel this

/-- Of what an offer to a queue changes, `spare` reads nothing. -/
@[simp] theorem spare_offer (c : CarrierId) (s : State) (m : MasterId) (f : OutFrame) :
    spare c (s.offer m f) = spare c s := spare_congr (by simp) (by simp) (by simp) (by simp)

@[simp] theorem spare_modStats (c : CarrierId) (s : State) (m : MasterId) (f : Stats → Stats) :
    spare c (s.modStats m f) = spare c s := rfl

@[simp] theorem spare_modCounters (c : CarrierId) (s : State) (f : Counters → Counters) :
    spare c (s.modCounters f) = spare c s := rfl

@[simp] theorem spare_modCarrier (c d : CarrierId) (s : State) (f : Carrier → Carrier) :
    spare c (s.modCarrier d f) = spare c s := rfl

@[simp] theorem spare_modTombstones (c : CarrierId) (s : State) (m : MasterId) (f : List Handle → List Handle) :
    spare c (s.modTombstones m f) = spare c s := rfl

@[simp] theorem spare_setFreeQueue (c : CarrierId) (s : State) (q : List GrantIndex) :
    spare c (s.setFreeQueue q) = spare c s := rfl

@[simp] theorem spare_setAge (c : CarrierId) (s : State) (l : List CaseId) : spare c (s.setAge l) = spare c s := rfl

/-! ### Grants -/

theorem spare_recycle {s : State} {i : GrantIndex} (e : (look s.table.entries i).grant.isSome = true) (c : CarrierId) :
    spare c (s.recycle i) + 1 = spare c s := by
  have h := spare_setEntry c s i ⟨(look s.table.entries i).gen + 1, none⟩
  simp only [e, if_true, Option.isSome_none, Bool.false_eq_true, if_false, Nat.add_zero] at h
  rw [← h]
  unfold recycle
  simp only
  split_ifs <;> rfl

@[simp] theorem spare_markAttached (c : CarrierId) (s : State) (h : Handle) (v : VictimState) (k : Option CaseId) :
    spare c (s.markAttached h v k) = spare c s := by
  cases k <;> simp [markAttached, markVictim]

theorem spare_giveUnits (c d : CarrierId) (s : State) (u : Nat) (w : UnitsTo) :
    spare c (s.giveUnits d u w) ≤ spare c s + if w = .pool then 1 else 0 := by
  cases w
  · simpa [giveUnits] using spare_returnUnits c d s u
  all_goals simp [giveUnits, addEarmark]

theorem spare_freeGrant (c : CarrierId) (s : State) (h : Handle) : spare c (s.freeGrant h) ≤ spare c s := by
  unfold freeGrant
  split
  · exact le_rfl
  · rename_i g e
    have used : (look s.table.entries h.index).grant.isSome = true := by simp [(entry_of_grantAt e).1]
    split
    · have := spare_recycle (s := s.modTombstones g.owner fun l => l.erase h) (i := h.index) used c
      simp only [spare_modTombstones] at this
      omega
    all_goals
      rename_i p
      have := spare_recycle (s := ((s.unlist g.carrier h).giveUnits g.carrier g.units g.phase.unitsTo).markAttached h
        .released g.phase.attached) (i := h.index) (by simpa using used) c
      have l := spare_giveUnits c g.carrier (s.unlist g.carrier h) g.units g.phase.unitsTo
      simp only [spare_markAttached, unlist, spare_modCarrier] at *
      split_ifs at l <;> omega

theorem spare_addTombstone (c : CarrierId) (s : State) (m : MasterId) (h : Handle) :
    spare c (s.addTombstone m h) ≤ spare c s := by
  unfold addTombstone
  simp only [spare_modTombstones]
  split
  · exact le_rfl
  · split_ifs
    · exact le_rfl
    · exact le_trans (spare_freeGrant _ _ _) (by simp)

/-- Of a revoke whose units do not go to the pool. -/
theorem spare_revoke (c : CarrierId) (s : State) (h : Handle) (y : RevokeCause) {d : UnitsTo} (n : d ≠ .pool) :
    spare c (s.revoke h y d) ≤ spare c s := by
  unfold revoke
  split
  · exact le_rfl
  · rename_i g e
    simp only [countRevoked, spare_modStats, spare_offer]
    refine le_trans (spare_addTombstone _ _ _ _) ?_
    simp only [spare_markAttached]
    refine le_trans (spare_giveUnits _ _ _ _ _) ?_
    simp only [unlist, spare_modCarrier, spare_setGrant e, n, if_false, Nat.add_zero, le_refl]

theorem spare_revokes (c : CarrierId) (y : RevokeCause) {d : UnitsTo} (n : d ≠ .pool) :
    ∀ (l : List Handle) (s : State), spare c (l.foldl (fun s h => s.revoke h y d) s) ≤ spare c s
  | [], _ => le_rfl
  | h :: l, s => le_trans (spare_revokes c y n l _) (spare_revoke c s h y n)

theorem spare_createGrant (c d : CarrierId) (s : State) (r : Request) :
    spare c (s.createGrant r d) ≤ spare c s + 1 := by
  unfold createGrant
  split
  · omega
  · simpa [countAdmitted] using spare_setGrant_le c s _ _

theorem spare_recallFor (c : CarrierId) (s : State) (k : CaseId) (h : Handle) :
    spare c (s.recallFor k h) = spare c s := by
  unfold recallFor recallGrant
  simp only [spare_modCase]
  split
  · rfl
  · rename_i e
    simp [countRecalled, spare_setGrant e]

theorem spare_recalls (c : CarrierId) (k : CaseId) :
    ∀ (l : List Handle) (s : State), spare c (l.foldl (fun s h => s.recallFor k h) s) = spare c s
  | [], _ => rfl
  | h :: l, s => (spare_recalls c k l _).trans (spare_recallFor c s k h)

@[simp] theorem spare_detachAll (c : CarrierId) (s : State) (k : CaseId) (x : Case) :
    spare c (s.detachAll k x) = spare c s := by
  unfold detachAll
  induction x.victims generalizing s with
  | nil => rfl
  | cons v l ih =>
    rw [List.foldl_cons, ih]
    unfold detachVictim
    split
    · rfl
    · rfl
    · split
      · rfl
      · rename_i e
        split
        · split_ifs
          · exact spare_setGrant e _ _
          · rfl
        all_goals rfl

/-! ### Lists and cases -/

theorem spare_modList_le {s : State} {l : Level} {m : MasterId} {f : List WaitEntry → List WaitEntry}
    (g : ∀ x, (f x).length = x.length + 1) (c : CarrierId) : spare c (s.modList l m f) ≤ spare c s + 2 := by
  cases l
  case p3 => exact Nat.le_add_right _ _
  all_goals
    simp only [spare, othersDue, storeCount, priorityCount, usedEntries, caseCount, modList, engine_modWaiting,
      waiting_modWaiting, recallUnit_modWaiting, table_modWaiting, sum_put_succ _ m _ (g _), g]
    omega

theorem spare_reportQueued (c : CarrierId) (s : State) (l : Level) : spare c (s.reportQueued l) = spare c s := by
  cases l <;> rfl

theorem spare_joinHead (c : CarrierId) (s : State) (r : Request) : spare c (s.joinHead r) ≤ spare c s + 2 := by
  unfold joinHead announceWaiting
  rw [spare_reportQueued, spare_offer]
  exact spare_modList_le (by simp) c

theorem spare_freeCase {s : State} {k : CaseId} {x : Case} (e : s.caseAt k = some x) (c : CarrierId) :
    spare c (s.freeCase k) + 2 = spare c s := by
  have := spare_setCase c s k none
  simpa [freeCase, e] using this

@[simp] theorem caseAt_detachAll (s : State) (k j : CaseId) (x : Case) : (s.detachAll k x).caseAt j = s.caseAt j := by
  simp [caseAt]

@[simp] theorem caseAt_createGrant (s : State) (r : Request) (c : CarrierId) (k : CaseId) :
    (s.createGrant r c).caseAt k = s.caseAt k := by
  unfold createGrant
  split
  · rfl
  · simp [caseAt, countAdmitted, setGrant]

/-- A case settles, closes or stays, on the carrier it targets. -/
theorem spare_trySettle {s : State} {k : CaseId} {x : Case} (e : s.caseAt k = some x) :
    spare x.target (s.trySettle k) ≤ spare x.target s := by
  simp only [trySettle, e]
  split_ifs
  · exact le_rfl
  · have f := spare_freeCase (s := (s.createGrant x.req x.target).detachAll k x) (k := k) (by simpa using e) x.target
    have g := spare_createGrant x.target x.target s x.req
    simp only [settle, spare_returnUnits_same, spare_detachAll] at *
    omega
  · have f := spare_freeCase (s := s.detachAll k x) (k := k) (by simpa using e) x.target
    simp only [closeWithoutGrant, refuse, answer, countRefused]
    split_ifs
    · have g := spare_joinHead x.target (((s.detachAll k x).freeCase k).returnUnits x.target x.earmark) x.req
      simp only [spare_returnUnits_same, spare_detachAll] at *
      omega
    · simp only [spare_modStats, spare_offer, spare_returnUnits_same, spare_detachAll] at *
      omega

/-! ### An offer -/

theorem spare_topUp (c : CarrierId) (s : State) (k : CaseId) : spare c (topUp c s k) ≤ spare c s := by
  unfold topUp
  split
  · exact le_rfl
  · rename_i x e
    split_ifs with h
    · subst h
      have f : ∀ u, (s.addEarmark k u).caseAt k = some { x with earmark := x.earmark + u } := fun u => by
        simp only [caseAt] at e
        simp [caseAt, addEarmark, e]
      exact le_trans (spare_trySettle (x := { x with earmark := x.earmark + _ }) (f _))
        (le_of_eq (spare_modCase _ _ _ _))
    · exact le_rfl

theorem spare_topUpInTurn (c : CarrierId) : ∀ (l : List CaseId) (s : State), spare c (topUpInTurn c l s) ≤ spare c s
  | [], _ => le_rfl
  | k :: rest, s => by
    simp only [topUpInTurn]
    split_ifs
    · exact le_trans (spare_topUpInTurn c rest _) (spare_topUp c s k)
    · exact spare_topUp c s k

/-- An attempt takes at most what the entry that leaves its list gives. -/
theorem spare_caseAttempt {s t : State} {r : Request} (h : s.caseAttempt r = some t) (c : CarrierId) :
    spare c t ≤ spare c s + 2 := by
  unfold caseAttempt at h
  split at h
  · cases h
  · rename_i k e
    split at h
    · cases h
    · rename_i p _
      cases h
      split_ifs
      · have a := spare_revokes c .holdBroken (d := .nowhere) (by simp) p.holds s
        have b := spare_createGrant c p.target (p.holds.foldl (fun s h => s.revoke h .holdBroken .nowhere) s) r
        have d := spare_addDue c p.target
          ((p.holds.foldl (fun s h => s.revoke h .holdBroken .nowhere) s).createGrant r p.target)
        unfold admitDirectly
        omega
      · have free : s.caseAt k = none := by simpa using List.find?_some e
        have a := spare_setCase c (s.setAge (s.recallUnit.age ++ [k])) k
          (some { req := r, target := p.target, earmark := p.room, victims := [], openedAt := s.now })
        have f : (s.setAge (s.recallUnit.age ++ [k])).caseAt k = none := free
        simp only [f, Option.isSome_none, Bool.false_eq_true, if_false, Option.isSome_some, if_true, spare_setAge,
          Nat.add_zero] at a
        rw [← a]
        simp only [openCase, reportCaseOpened, spare_modCounters, spare_offer, gather, spare_recalls]
        exact spare_revokes _ _ (by simp) _ _

/-! ### The waiting store under an attempt -/

@[simp] theorem waiting_createGrant (s : State) (r : Request) (c : CarrierId) :
    (s.createGrant r c).waiting = s.waiting := by
  unfold createGrant
  split
  · rfl
  · simp [countAdmitted, setGrant]

@[simp] theorem waiting_addDue (s : State) (c : CarrierId) : (s.addDue c).waiting = s.waiting := rfl

@[simp] theorem waiting_giveUnits (s : State) (c : CarrierId) (u : Nat) (d : UnitsTo) :
    (s.giveUnits c u d).waiting = s.waiting := by
  cases d <;> simp [giveUnits, addEarmark, returnUnits]
  split_ifs <;> rfl

@[simp] theorem waiting_markAttached (s : State) (h : Handle) (v : VictimState) (k : Option CaseId) :
    (s.markAttached h v k).waiting = s.waiting := by
  cases k <;> rfl

@[simp] theorem waiting_recycle (s : State) (i : GrantIndex) : (s.recycle i).waiting = s.waiting := by
  unfold recycle
  simp only
  split_ifs <;> rfl

@[simp] theorem waiting_freeGrant (s : State) (h : Handle) : (s.freeGrant h).waiting = s.waiting := by
  unfold freeGrant
  split
  · rfl
  · split <;> simp [unlist]

@[simp] theorem waiting_addTombstone (s : State) (m : MasterId) (h : Handle) :
    (s.addTombstone m h).waiting = s.waiting := by
  unfold addTombstone
  simp only [waiting_modTombstones]
  split
  · rfl
  · split_ifs <;> simp

@[simp] theorem waiting_revoke (s : State) (h : Handle) (y : RevokeCause) (d : UnitsTo) :
    (s.revoke h y d).waiting = s.waiting := by
  unfold revoke
  split
  · rfl
  · simp [countRevoked, unlist, setGrant]

@[simp] theorem waiting_recallFor (s : State) (k : CaseId) (h : Handle) : (s.recallFor k h).waiting = s.waiting := by
  unfold recallFor recallGrant
  split
  · rfl
  · simp [countRecalled, setGrant]

theorem waiting_foldl {α : Type} (f : State → α → State) (h : ∀ s x, (f s x).waiting = s.waiting) :
    ∀ (l : List α) (s : State), (l.foldl f s).waiting = s.waiting
  | [], _ => rfl
  | x :: l, s => (waiting_foldl f h l _).trans (h s x)

/-- A case attempt leaves the waiting store as it is. -/
theorem waiting_caseAttempt {s t : State} {r : Request} (h : s.caseAttempt r = some t) : t.waiting = s.waiting := by
  unfold caseAttempt at h
  split at h
  · cases h
  · split at h
    · cases h
    · cases h
      split_ifs
      · rw [admitDirectly, waiting_addDue, waiting_createGrant]
        exact waiting_foldl _ (fun s h => waiting_revoke s h _ _) _ _
      · simp only [openCase, reportCaseOpened, waiting_modCounters, waiting_offer, gather]
        rw [waiting_foldl _ (fun s h => waiting_recallFor s _ h),
          waiting_foldl _ (fun s h => waiting_revoke s h _ _)]
        rfl

/-! ### The lists, an offer, the continuation -/

theorem spare_popE (c : CarrierId) {s : State} {w : WaitEntry} {l : List WaitEntry} (e : s.waiting.eList = w :: l) :
    spare c s.popE + 2 = spare c s := by
  simp only [spare, othersDue, storeCount, priorityCount, usedEntries, caseCount, popE, engine_modWaiting,
    waiting_modWaiting, recallUnit_modWaiting, table_modWaiting, e, List.tail_cons, List.length_cons]
  omega

theorem spare_stage2 (c : CarrierId) (a : Bool) : ∀ (n : Nat) (s : State), spare c (stage2 c a n s) ≤ spare c s
  | 0, _ => le_rfl
  | n + 1, s => by
    rw [stage2]
    split
    · exact le_rfl
    · rename_i w l e
      split_ifs
      · have p := spare_popE c e
        have g := spare_createGrant c c s.popE w.req
        have := spare_stage2 c a n (s.popE.createGrant w.req c)
        omega
      · split
        · exact le_rfl
        · rename_i t h
          have p := spare_popE c (s := t) ((congrArg Waiting.eList (waiting_caseAttempt h)).trans e)
          have g := spare_caseAttempt h c
          have := spare_stage2 c a n t.popE
          omega
      · exact le_rfl

theorem spare_popOf (c : CarrierId) {s : State} {l : Level} {m : MasterId} {w : WaitEntry} (e : s.headOf l m = some w) :
    spare c (s.popOf l m) + 2 = spare c s := by
  cases l
  case e => cases e
  case p3 => cases e
  case p1 =>
    obtain ⟨r, e⟩ : ∃ r, look s.waiting.p1Lists m = w :: r := List.head?_eq_some_iff.mp e
    have h := sum_put_succ (put s.waiting.p1Lists m r) m (w :: r) (by simp)
    rw [put_put, ← e, put_look] at h
    simp only [spare, othersDue, storeCount, priorityCount, usedEntries, caseCount, popOf, modList, engine_modWaiting,
      waiting_modWaiting, recallUnit_modWaiting, table_modWaiting, e, List.tail_cons, h]
    omega
  case p2 =>
    obtain ⟨r, e⟩ : ∃ r, look s.waiting.p2Lists m = w :: r := List.head?_eq_some_iff.mp e
    have h := sum_put_succ (put s.waiting.p2Lists m r) m (w :: r) (by simp)
    rw [put_put, ← e, put_look] at h
    simp only [spare, othersDue, storeCount, priorityCount, usedEntries, caseCount, popOf, modList, engine_modWaiting,
      waiting_modWaiting, recallUnit_modWaiting, table_modWaiting, e, List.tail_cons, h]
    omega

@[simp] theorem spare_setPointer (c : CarrierId) (s : State) (l : Level) (m : MasterId) :
    spare c (s.setPointer l m) = spare c s := by
  cases l <;> rfl

theorem spare_rotate (c : CarrierId) (l : Level) :
    ∀ (n : Nat) (m : MasterId) (k : Nat) (s : State), spare c (rotate c l n m k s) ≤ spare c s
  | 0, _, _, _ => le_rfl
  | n + 1, m, k, s => by
    rw [rotate]
    split_ifs
    · exact le_rfl
    · split
      · exact spare_rotate c l n _ _ s
      · rename_i w e
        split_ifs
        · have p := spare_popOf c e
          have g := spare_createGrant c c (s.popOf l m) w.req
          have := spare_rotate c l n (m + 1) 0 (((s.popOf l m).createGrant w.req c).setPointer l (m + 1))
          simp only [spare_setPointer] at this
          omega
        · split
          · exact spare_rotate c l n _ _ s
          · rename_i t h
            have p := spare_popOf c (s := t) (l := l) (m := m) (w := w) (by
              rw [← e]; unfold headOf; rw [waiting_caseAttempt h])
            have g := spare_caseAttempt h c
            have := spare_rotate c l n (m + 1) 0 ((t.popOf l m).setPointer l (m + 1))
            simp only [spare_setPointer] at this
            omega
        · exact spare_rotate c l n _ _ s

theorem spare_lists (c : CarrierId) (s : State) : spare c (s.lists c) ≤ spare c s := by
  unfold lists rotation
  split_ifs
  · exact le_trans (spare_rotate _ _ _ _ _ _) (le_trans (spare_rotate _ _ _ _ _ _) (spare_stage2 _ _ _ _))
  · exact le_rfl

/-- Of what an evaluation of QUOTA_EXCESS changes, neither `spare` nor a continuation reads anything. -/
theorem evalQuota_keeps (s : State) :
    s.evalQuota.engine = s.engine ∧ s.evalQuota.waiting = s.waiting ∧ s.evalQuota.recallUnit = s.recallUnit ∧
    s.evalQuota.table = s.table := by
  unfold evalQuota
  generalize allMasters = l
  induction l generalizing s with
  | nil => exact ⟨rfl, rfl, rfl, rfl⟩
  | cons m l ih =>
    rw [List.foldl_cons]
    obtain ⟨a, b, c, d⟩ := ih (s.evalQuotaOf m)
    rw [a, b, c, d]
    unfold evalQuotaOf setFault
    simp only
    split_ifs <;> simp

/-- The offers due and what they may use up. -/
def toOffer (s : State) : Nat := s.engine.due.length + 2 * (s.storeCount + s.caseCount) + s.usedEntries

/-- An offer uses up what makes another due. -/
theorem toOffer_runOffer {s : State} {c : CarrierId} {rest : List CarrierId} (e : s.engine.due = c :: rest) :
    ((s.modEngine fun e => { e with due := rest }).runOffer c).toOffer < s.toOffer := by
  have start : (s.modEngine fun e => { e with due := rest }).toOffer < s.toOffer := by
    simp only [toOffer, storeCount, priorityCount, caseCount, usedEntries, engine_modEngine, waiting_modEngine,
      recallUnit_modEngine, table_modEngine, e, List.length_cons]
    omega
  generalize s.modEngine (fun e => { e with due := rest }) = u at start
  refine lt_of_le_of_lt ?_ start
  unfold runOffer
  split_ifs
  · exact le_rfl
  · have h := le_trans (spare_lists c (u.stage1 c)) (spare_topUpInTurn c (u.casesTargeting c) u)
    have others : spare c u ≤ u.toOffer := by
      simp only [spare, othersDue, toOffer]
      have := List.length_filter_le (fun x => decide (x ≠ c)) u.engine.due
      omega
    refine le_trans (le_of_eq ?_) (le_trans h others)
    obtain ⟨a, b, d, f⟩ := evalQuota_keeps (((u.stage1 c).lists c).modEngine fun e => { e with due := e.due.filter (· ≠ c) })
    simp only [toOffer, spare, othersDue, storeCount, priorityCount, caseCount, usedEntries, a, b, d, f]
    rfl

/-- With fuel enough the due list is served until it is empty, and more fuel changes nothing. -/
theorem drain_of_bound : ∀ (n : Nat) (s : State), s.toOffer < n →
    (drain n s).engine.due = [] ∧ ∀ k, n ≤ k → drain k s = drain n s
  | 0, _, h => absurd h (Nat.not_lt_zero _)
  | n + 1, s, h => by
    rcases e : s.engine.due with _ | ⟨c, rest⟩
    · refine ⟨by simp [drain, e], fun k le => ?_⟩
      obtain ⟨k, rfl⟩ : ∃ j, k = j + 1 := ⟨k - 1, by omega⟩
      simp [drain, e]
    · have less := toOffer_runOffer e
      obtain ⟨a, b⟩ := drain_of_bound n _ (show ((s.modEngine fun e => { e with due := rest }).runOffer c).toOffer < n by
        omega)
      refine ⟨by simpa [drain, e] using a, fun k le => ?_⟩
      obtain ⟨k, rfl⟩ : ∃ j, k = j + 1 := ⟨k - 1, by omega⟩
      simpa [drain, e] using b k (by omega)

theorem toOffer_le (s : State) : s.toOffer ≤ s.offerBound := by
  have := s.usedEntries_le
  simp only [toOffer, offerBound]
  omega

/-- `continuation` with any fuel that is enough. -/
theorem continuation_eq (s : State) {n : Nat} (h : s.toOffer < n) :
    s.continuation = if (drain n s).engine.retryDue then (drain n s).tableRetry else drain n s := by
  have b := toOffer_le s
  have e : drain (s.offerBound + 1) s = drain n s := by
    rcases Nat.le_total n (s.offerBound + 1) with l | l
    · exact (drain_of_bound n s h).2 _ l
    · exact ((drain_of_bound (s.offerBound + 1) s (by omega)).2 _ l).symm
  unfold continuation
  rw [e]

/-- R63: the carrier at the head of the due list is offered, and the continuation goes on. -/
theorem continuation_cons {s : State} {c : CarrierId} {rest : List CarrierId} (e : s.engine.due = c :: rest) :
    s.continuation = ((s.modEngine fun e => { e with due := rest }).runOffer c).continuation := by
  have less := toOffer_runOffer e
  rw [continuation_eq s (Nat.lt_succ_self _), continuation_eq _ less]
  simp [drain, e]

theorem continuation_nil {s : State} (e : s.engine.due = []) :
    s.continuation = if s.engine.retryDue then s.tableRetry else s := by
  rw [continuation_eq s (Nat.lt_succ_self _)]
  simp [drain, e]

@[simp] theorem engine_createGrant (s : State) (r : Request) (c : CarrierId) :
    (s.createGrant r c).engine = s.engine := by
  unfold createGrant
  split
  · rfl
  · simp [countAdmitted, setGrant]

/-- Without attempts stage 2 leaves the engine's own state as it is. -/
theorem engine_stage2 (c : CarrierId) : ∀ (n : Nat) (s : State), (stage2 c false n s).engine = s.engine
  | 0, _ => rfl
  | n + 1, s => by
    rw [stage2]
    split
    · rfl
    · split_ifs
      · rw [engine_stage2 c n, engine_createGrant]; rfl
      · simp_all
      · rfl

theorem engine_tableRetry (s : State) : s.tableRetry.engine = { s.engine with retryDue := false } := by
  unfold tableRetry
  rw [(evalQuota_keeps _).1]
  suffices h : ∀ (l : List CarrierId) (t : State), (l.foldl (fun s c =>
      if s.eligible c && !s.waiting.eList.isEmpty && !s.table.freeQueue.isEmpty then
        stage2 c false (s.waiting.eList.length + 1) s
      else s) t).engine = t.engine by exact (h _ _).trans rfl
  intro l
  induction l with
  | nil => exact fun _ => rfl
  | cons c l ih =>
    intro t
    rw [List.foldl_cons, ih]
    split_ifs
    · exact engine_stage2 _ _ _
    · rfl

/-- R63, R68: a continuation leaves nothing due. -/
theorem engine_continuation (s : State) : s.continuation.engine.due = [] ∧ s.continuation.engine.retryDue = false := by
  have b := toOffer_le s
  have e := (drain_of_bound (s.offerBound + 1) s (by omega)).1
  unfold continuation
  simp only
  split_ifs with r
  · rw [engine_tableRetry]; exact ⟨e, rfl⟩
  · exact ⟨e, by simpa using r⟩

end State

end Sys2Proof.Machine
end

