-- ==== Sys2Proof/Laws/Frames.lean ====
section
/-! SUPPORT. How a frame reaches its meaning: by the link state (R143), the configuration right (R158), the table and the
index (R159); and the codes and numbers that frame fields spell. -/

namespace Sys2Proof.Machine

theorem numberBelow_eq {n v : Nat} (i : Fin n) (e : v = i.val) : numberBelow n v = some i := by
  subst e; simp [numberBelow]

theorem numberBelow_none {n v : Nat} (h : n ≤ v) : numberBelow n v = none := by
  unfold numberBelow; rw [dif_neg (by omega)]

@[simp] theorem CarrierState.ofCode_code (x : CarrierState) : CarrierState.ofCode x.code = some x := by cases x <;> rfl

@[simp] theorem GroupMode.ofCode_code (x : GroupMode) : GroupMode.ofCode x.code = some x := by cases x <;> rfl

@[simp] theorem AdmitMode.ofCode_code (x : AdmitMode) : AdmitMode.ofCode x.code = some x := by cases x <;> rfl

@[simp] theorem NoticeMode.ofCode_code (x : NoticeMode) : NoticeMode.ofCode x.code = some x := by cases x <;> rfl

@[simp] theorem Level.ofCode_code (x : Level) : Level.ofCode x.code = some x := by cases x <;> rfl

@[simp] theorem Gate.ofCode_code (x : Gate) : Gate.ofCode x.code = some x := by cases x <;> rfl

@[simp] theorem yesNo_code (x : Bool) : yesNo (yesNoCode x) = some x := by cases x <;> rfl

namespace State

/-- In UP and STALE a frame that finds none waiting is served after the link has been woken (R143). -/
theorem onFrame_of_serves {s : State} {m : MasterId} (h : s.Serves m) (c : Instr) (f : State → State) :
    s.onFrame m c f = f (s.wake m) := by
  obtain ⟨h | h, e⟩ := h <;> simp [onFrame, h, e]

/-- Behind frames that wait it waits (R145). -/
theorem onFrame_of_waiting {s : State} {m : MasterId} (h : (s.port m).rxBuffer ≠ []) (c : Instr)
    (f : State → State) : s.onFrame m c f = s.hold m c := by
  unfold onFrame
  split <;> simp_all [hold]

/-- In the other states it is discarded. -/
theorem hold_of_not {s : State} {m : MasterId} (h : ¬s.Listens m) (c : Instr) : s.hold m c = s := by
  unfold Listens at h
  push Not at h
  unfold hold
  split <;> simp_all

theorem onFrame_of_not {s : State} {m : MasterId} (h : ¬s.Listens m) (c : Instr) (f : State → State) :
    s.onFrame m c f = s := by
  unfold Listens at h
  push Not at h
  unfold onFrame
  split <;> simp_all

theorem countFrameFault_of_not {s : State} {m : MasterId} (h : ¬s.Listens m) : s.countFrameFault m = s := by
  unfold Listens at h
  push Not at h
  unfold countFrameFault
  split <;> simp_all

theorem noteFault_of_not {s : State} {m : MasterId} (h : ¬s.Listens m) : s.noteFault m = s := by
  have c := countFrameFault_of_not h
  unfold Listens at h
  push Not at h
  unfold noteFault
  split
  · exact c
  · split <;> simp_all

/-- On an open link a fault is counted at once when nothing waits, else in its turn (R155, log 33). -/
theorem noteFault_of_listens {s : State} {m : MasterId} (h : s.Listens m) :
    s.noteFault m = if (s.port m).rxBuffer = [] then s.countFrameFault m else s.joinBuffer m (.frameFault m) := by
  rcases h with h | h <;> simp [noteFault, h]

/-- All that becomes of a frame that arrives while earlier ones wait (R143, R145). -/
theorem hold_cases (s : State) (m : MasterId) (c : Instr) :
    s.hold m c = s ∨
    (s.Listens m ∧ 16 ≤ s.framesWaiting m ∧ s.hold m c = s.noteFault m) ∨
    (s.Listens m ∧ s.framesWaiting m < 16 ∧ s.hold m c = (s.wake m).joinBuffer m c) := by
  by_cases l : s.Listens m
  · by_cases f : 16 ≤ s.framesWaiting m
    · exact .inr (.inl ⟨l, f, by rcases l with l | l <;> simp [hold, l, Config.receiveSize, f]⟩)
    · exact .inr (.inr ⟨l, by omega, by rcases l with l | l <;> simp [hold, l, Config.receiveSize, f]⟩)
  · exact .inl (hold_of_not l c)

/-- All that becomes of a frame's arrival: it is served, or it meets what `hold_cases` says. -/
theorem onFrame_cases (s : State) (m : MasterId) (c : Instr) (f : State → State) :
    (s.Serves m ∧ s.onFrame m c f = f (s.wake m)) ∨ s.onFrame m c f = s.hold m c := by
  by_cases l : s.Listens m
  · by_cases e : (s.port m).rxBuffer = []
    · exact .inl ⟨⟨l, e⟩, onFrame_of_serves ⟨l, e⟩ c f⟩
    · exact .inr (onFrame_of_waiting e c f)
  · exact .inr (by rw [onFrame_of_not l, hold_of_not l])

/-- A report or a tick that finds no frame waiting is served after the timer has started (R156). -/
theorem onRadioFrame_of_serves {s : State} (h : s.RadioServes) (c : Instr) (f : State → State) :
    s.onRadioFrame c f = f s.wakeRadio := by
  obtain ⟨h | h, e⟩ := h <;> simp [onRadioFrame, h, e]

/-- All that becomes of a report or a tick that arrives while earlier frames wait (R156). -/
theorem holdRadio_cases (s : State) (c : Instr) :
    s.holdRadio c = s ∨
    (s.radio.link ≠ .down ∧ s.radio.rxBuffer.length < 16 ∧ s.holdRadio c = s.wakeRadio.joinRadioBuffer c) := by
  unfold holdRadio
  split
  · exact .inl rfl
  all_goals
    rename_i l
    by_cases f : 16 ≤ s.radio.rxBuffer.length
    · exact .inl (by simp [radioFull, Config.receiveSize, f])
    · exact .inr ⟨by simp [l], by omega, by simp [radioFull, Config.receiveSize, f]⟩

/-- All that becomes of a report's or a tick's arrival. -/
theorem onRadioFrame_cases (s : State) (c : Instr) (f : State → State) :
    (s.RadioServes ∧ s.onRadioFrame c f = f s.wakeRadio) ∨ s.onRadioFrame c f = s.holdRadio c := by
  by_cases e : s.radio.rxBuffer = []
  · rcases l : s.radio.link with _ | _ | _
    · exact .inr (by simp [onRadioFrame, holdRadio, l])
    · exact .inl ⟨⟨.inl l, e⟩, onRadioFrame_of_serves ⟨.inl l, e⟩ c f⟩
    · exact .inl ⟨⟨.inr l, e⟩, onRadioFrame_of_serves ⟨.inr l, e⟩ c f⟩
  · exact .inr (by unfold onRadioFrame; split <;> simp_all [holdRadio])

/-- Of the part a frame's arrival changes one port alone. -/
theorem wake_eq (s : State) (m : MasterId) :
    s.wake m =
      { s with
        ports := put s.ports m { s.port m with
          link := .up, orphan := none, silence := some (s.epoch.timebase + (s.master m).silencePeriod) } } := rfl

@[simp] theorem configRight_wake (s : State) (m : MasterId) :
    ((s.wake m).port m).configRight = (s.port m).configRight := by simp [wake]

@[simp] theorem unqueued_offer (s : State) (m j : MasterId) (f : OutFrame) :
    ((s.offer m f).port j).unqueued = (s.port j).unqueued := by
  by_cases h : j = m
  · subst h
    obtain ⟨q, o, e⟩ := port_offer_same s j f
    rw [e]; rfl
  · rw [port_offer_ne s h]

theorem withRight_of_right {s : State} {m : MasterId} (r : (s.port m).configRight = true) (tag : Half) (t : State) :
    s.withRight m tag t = t := by simp [withRight, r]

theorem withRight_of_not {s : State} {m : MasterId} (r : (s.port m).configRight = false) (tag : Half) (t : State) :
    s.withRight m tag t = s.offer m (plainAnswer tag .noRight) := by simp [withRight, r, answer, plainAnswer]

theorem withEntry_of_right {s : State} {m : MasterId} {n : Nat} {index : Byte} (r : (s.port m).configRight = true)
    (tag : Half) (i : Fin n) (e : index.toNat = i.val) (f : Fin n → State) : s.withEntry m tag n index f = f i := by
  simp [withEntry, withRight_of_right r, numberBelow_eq i e]

theorem withEntry_outside {s : State} {m : MasterId} {n : Nat} {index : Byte} (r : (s.port m).configRight = true)
    (tag : Half) (h : n ≤ index.toNat) (f : Fin n → State) :
    s.withEntry m tag n index f = s.offer m (plainAnswer tag .outOfRange) := by
  simp [withEntry, withRight_of_right r, numberBelow_none h, answer, plainAnswer]

theorem withEntry_of_not {s : State} {m : MasterId} {n : Nat} {index : Byte} (r : (s.port m).configRight = false)
    (tag : Half) (f : Fin n → State) : s.withEntry m tag n index f = s.offer m (plainAnswer tag .noRight) := by
  simp [withEntry, withRight_of_not r]

end State

end Sys2Proof.Machine
end

