-- ==== Sys2Proof/Laws/Inward.lean ====
section
/-! SUPPORT. What a step can do; how a frame's command reaches `passInward`, at once or by way of a receive buffer (R143,
R145, R156); what a suspension does to a port, and that the suspensions a CLEAR_STATE serves leave no overrun (R165). -/

namespace Sys2Proof.Machine

/-- All that a step can do. -/
theorem step_cases {s t : State} (h : Machine.step s = .next t) :
    (∃ c rest, s.pending = c :: rest ∧ exec c { s with pending := rest } = .next t) ∨
    (s.pending = [] ∧ ∃ c, s.dueEvent = some c ∧ exec c s = .next t) ∨
    (s.pending = [] ∧ s.dueEvent = none ∧ s.passWaiting = some t) ∨
    (s.pending = [] ∧ s.dueEvent = none ∧ s.passWaiting = none ∧ t = s.tick) := by
  unfold step at h
  split at h
  · rename_i c rest e
    exact .inl ⟨c, rest, e, h⟩
  · rename_i e
    split at h
    · rename_i c d
      exact .inr (.inl ⟨e, c, d, h⟩)
    · rename_i d
      split at h
      · rename_i u p
        cases h
        exact .inr (.inr (.inl ⟨e, d, p⟩))
      · rename_i p
        cases h
        exact .inr (.inr (.inr ⟨e, d, p, rfl⟩))

namespace State

/-! ### A frame on its way -/

/-- The meaning of every well-formed frame but LINK_OPEN: it arrives, and is passed inward. -/
theorem exec_frame {c : Instr} {m : MasterId} (w : WellFormed c = true) (f : c.frameOn = some m) (s : State) :
    exec c s = .next (s.onFrame m c fun u => u.passInward c) := by
  cases c <;> simp only [Instr.frameOn, Instr.queryFields, Instr.needsRight, Option.map_none, Option.map_some,
    Option.or_none, Option.none_or, Option.some.injEq, reduceCtorEq] at f
  case configGroup =>
    subst f
    simp only [WellFormed, beq_iff_eq] at w
    simp [exec, execConfigGroup, w]
    rfl
  case configUnknownTable =>
    subst f
    simp only [WellFormed, Bool.or_eq_true, beq_iff_eq, decide_eq_true_eq] at w
    simp only [exec, execConfigUnknownTable]
    rw [if_neg (by omega)]
    rfl
  all_goals subst f; rfl

theorem exec_radioFrame {c : Instr} (f : (∃ k v, c = .carrierReport k v) ∨ ∃ n, c = .epochTick n) (s : State) :
    exec c s = .next (s.onRadioFrame c fun u => u.passInward c) := by
  rcases f with ⟨k, v, rfl⟩ | ⟨n, rfl⟩ <;> rfl

theorem arrive_frame {c : Instr} {m : MasterId} (f : c.frameOn = some m) (s : State) : s.arrive c = s.hold m c := by
  rw [arrive, f]

theorem arrive_linkOpen (m : MasterId) (notice keep : Byte) (s : State) :
    exec (.linkOpen m notice keep) s = .next (s.arrive (.linkOpen m notice keep)) := rfl

/-- All that an arrival can do. -/
theorem arrive_cases (c : Instr) (s : State) :
    (∃ m, c.frameOn = some m ∧ s.arrive c = s.hold m c) ∨
    (∃ m notice keep, c = .linkOpen m notice keep ∧ s.arrive c = s.takeLinkOpen m notice keep) ∨
    (∃ m, (c = .frameFault m ∨ c = .receiveBufferOverflow m) ∧ s.arrive c = s.noteFault m) ∨
    ((c = .radioFrameFault ∨ c = .radioReceiveBufferOverflow) ∧ s.arrive c = s) ∨
    (∃ cfgr epm, (c = .powerOn cfgr epm ∧ s.arrive c = s.powerUp cfgr epm) ∨
      (c = .resetPin cfgr epm ∧ s.arrive c = s.resetLow cfgr epm)) ∨
    (c = .pinResetEnd ∧ s.arrive c = s.resetHigh) ∨
    (((∃ k v, c = .carrierReport k v) ∨ ∃ n, c = .epochTick n) ∧ s.arrive c = s.holdRadio c) ∨
    (∃ tag, c = .radioOpen tag ∧
      s.arrive c = if s.radio.link = .down then s.takeRadioOpen tag else s.holdRadioOpen tag) ∨
    s.arrive c = { s with pending := s.pending ++ [c] } := by
  rcases f : c.frameOn with _ | m
  · cases c
    case linkOpen => exact .inr (.inl ⟨_, _, _, rfl, rfl⟩)
    case frameFault => exact .inr (.inr (.inl ⟨_, .inl rfl, rfl⟩))
    case receiveBufferOverflow => exact .inr (.inr (.inl ⟨_, .inr rfl, rfl⟩))
    case radioFrameFault => exact .inr (.inr (.inr (.inl ⟨.inl rfl, rfl⟩)))
    case radioReceiveBufferOverflow => exact .inr (.inr (.inr (.inl ⟨.inr rfl, rfl⟩)))
    case powerOn => exact .inr (.inr (.inr (.inr (.inl ⟨_, _, .inl ⟨rfl, rfl⟩⟩))))
    case resetPin => exact .inr (.inr (.inr (.inr (.inl ⟨_, _, .inr ⟨rfl, rfl⟩⟩))))
    case pinResetEnd => exact .inr (.inr (.inr (.inr (.inr (.inl ⟨rfl, rfl⟩)))))
    case carrierReport => exact .inr (.inr (.inr (.inr (.inr (.inr (.inl ⟨.inl ⟨_, _, rfl⟩, rfl⟩))))))
    case epochTick => exact .inr (.inr (.inr (.inr (.inr (.inr (.inl ⟨.inr ⟨_, rfl⟩, rfl⟩))))))
    case radioOpen tag =>
      refine .inr (.inr (.inr (.inr (.inr (.inr (.inr (.inl ⟨tag, rfl, ?_⟩)))))))
      change s.arriveOther (.radioOpen tag) = _
      unfold arriveOther
      cases s.radio.link <;> rfl
    case holdExpiry | waitExpiry | recallDeadlineExpiry | silenceExpiry | orphanStage1 | orphanStage2 | radioSilenceExpiry |
      intervalTimerExpiry | lossTimerExpiry | suspension | outboundSend | radioOutboundSend | outboundFrameSent =>
      exact .inr (.inr (.inr (.inr (.inr (.inr (.inr (.inr rfl)))))))
    all_goals cases f
  · exact .inl ⟨m, rfl, arrive_frame f s⟩

theorem nextFrame_of_listens {s : State} {m : MasterId} (h : s.Listens m) :
    s.nextFrame m = (s.port m).rxBuffer.head? := by
  rcases h with h | h <;> simp [nextFrame, h]

theorem nextFrame_of_not {s : State} {m : MasterId} (h : ¬s.Listens m) : s.nextFrame m = none := by
  unfold Listens at h
  push Not at h
  unfold nextFrame
  split <;> simp_all

theorem popBuffer_eq {s : State} {m : MasterId} {c : Instr} {rest : List Instr} (e : (s.port m).rxBuffer = c :: rest) :
    s.popBuffer m = s.modPort m fun p => { p with rxBuffer := rest } := by
  simp only [State.port] at e
  simp [popBuffer, modPort, e]

theorem popRadioBuffer_eq {s : State} {c : Instr} {rest : List Instr} (e : s.radio.rxBuffer = c :: rest) :
    s.popRadioBuffer = s.modRadio fun r => { r with rxBuffer := rest } := by
  simp [popRadioBuffer, modRadio, e]

/-- All that passing a waiting frame inward can do. -/
theorem passWaiting_cases {s t : State} (h : s.passWaiting = some t) :
    (∃ m c rest, s.Listens m ∧ (s.port m).rxBuffer = c :: rest ∧
      t = (s.modPort m fun p => { p with rxBuffer := rest }).passInward c) ∨
    ∃ c rest, s.radio.link ≠ .down ∧ s.radio.rxBuffer = c :: rest ∧
      t = (s.modRadio fun r => { r with rxBuffer := rest }).passInward c := by
  unfold passWaiting at h
  split at h
  · rename_i u f
    cases h
    obtain ⟨m, _, e⟩ := List.exists_of_findSome?_eq_some f
    by_cases l : s.Listens m
    · rw [nextFrame_of_listens l] at e
      rcases b : (s.port m).rxBuffer with _ | ⟨c, rest⟩
      · simp [b] at e
      · simp only [b, List.head?_cons, Option.map_some, Option.some.injEq] at e
        exact .inl ⟨m, c, rest, l, b, by rw [← popBuffer_eq b]; exact e.symm⟩
    · simp [nextFrame_of_not l] at e
  · unfold nextRadioFrame at h
    split at h
    · cases h
    all_goals
      rename_i l
      rcases b : s.radio.rxBuffer with _ | ⟨c, rest⟩
      · simp [b] at h
      · simp only [b, List.head?_cons, Option.map_some, Option.some.injEq] at h
        exact .inr ⟨c, rest, by simp [l], rfl, by rw [← popRadioBuffer_eq b]; exact h.symm⟩

/-- With no frame waiting on an open link there is none to pass. -/
theorem passWaiting_none {s : State} (h : s.passWaiting = none) :
    (∀ m, s.Listens m → (s.port m).rxBuffer = []) ∧ (s.radio.link ≠ .down → s.radio.rxBuffer = []) := by
  unfold passWaiting at h
  split at h
  · cases h
  · rename_i f
    refine ⟨fun m l => ?_, fun l => ?_⟩
    · have e := List.findSome?_eq_none_iff.mp f m (by clear l; revert m; decide)
      simpa [nextFrame_of_listens l] using e
    · unfold nextRadioFrame at h
      split at h <;> simp_all

/-! ### Suspensions -/

/-- An offer to a link that is neither UP nor STALE sets no overrun pending (R153). -/
theorem overrun_offer {s : State} {m : MasterId} (h : ¬s.Listens m) (f : OutFrame) :
    ((s.offer m f).port m).overrun = (s.port m).overrun := by
  unfold Listens at h
  push Not at h
  rcases s.offer_cases m f with e | ⟨_, _, e⟩ | e
  · rw [e]
  · rw [e]; simp [enqueue]
  · by_cases o : (s.port m).overrun = true
    · simp [e, o]
    · unfold offer
      simp only [o]
      cases l : (s.port m).link <;> simp_all
      split_ifs <;> simp [enqueue, o]

/-- The works of a suspension, behind the write of the port. -/
theorem works_suspend (s : State) (m : MasterId) (r : SuspendReason) :
    Works (s.modPort m fun p =>
      { p with link := .suspended, suspendReason := some r, silence := none, orphan := none, rxBuffer := [],
               queue := [], overrun := false }) (s.suspend m r) :=
  ((works_dropPending _ _).trans (works_linkClaim _ _ _)).trans (works_finish _)

/-- What a suspension does to the ports, but for their queues, overruns and flags. -/
theorem skeleton_suspend (s : State) (m : MasterId) (r : SuspendReason) (j : MasterId) :
    ((s.suspend m r).port j).skeleton =
      if j = m then
        { (s.port m).skeleton with
          link := .suspended, suspendReason := some r, silence := none, orphan := none, rxBuffer := [] }
      else (s.port j).skeleton := by
  rw [port_of_skeleton (works_suspend s m r).skeleton j]
  split_ifs with h
  · subst h; simp [Port.skeleton]
  · rw [port_modPort_ne _ h]

end State

namespace Works

/-- Work sets no overrun pending on a link that is neither UP nor STALE, and clears none. -/
theorem overrun {s t : State} (h : Works s t) (m : MasterId) :
    ((s.port m).overrun = true → (t.port m).overrun = true) ∧
    (¬s.Listens m → (t.port m).overrun = (s.port m).overrun) := by
  induction h with
  | refl => exact ⟨id, fun _ => rfl⟩
  | @offer t w j f ih =>
    by_cases h : m = j
    · subst h
      refine ⟨fun o => ?_, fun l => ?_⟩
      · simp [State.offer, ih.1 o]
      · rw [← ih.2 l, State.overrun_offer]
        have link : (t.port m).skeleton.link = (s.port m).skeleton.link := by rw [port_of_skeleton w.skeleton m]
        change (t.port m).link = (s.port m).link at link
        simpa only [State.Listens, link] using l
    · rw [State.port_offer_ne _ h]; exact ih
  | @flags t w j f ih =>
    by_cases h : m = j
    · subst h; simpa using ih
    · rw [State.port_modPort_ne _ h]; exact ih
  | _ => assumption

end Works

namespace State

/-- Port m can be overrun no more: its link takes no frame, and no overrun is pending. -/
def Quiet (s : State) (m : MasterId) : Prop := ¬s.Listens m ∧ (s.port m).overrun = false

theorem link_suspend (s : State) (m : MasterId) (r : SuspendReason) (j : MasterId) :
    ((s.suspend m r).port j).link = if j = m then .suspended else (s.port j).link := by
  have e : ∀ p : Port, p.link = p.skeleton.link := fun _ => rfl
  rw [e, skeleton_suspend]
  split_ifs <;> rfl

theorem quiet_suspend (s : State) (m : MasterId) (r : SuspendReason) (j : MasterId) (h : j = m ∨ s.Quiet j) :
    (s.suspend m r).Quiet j := by
  have l := link_suspend s m r j
  have o := (works_suspend s m r).overrun j
  by_cases e : j = m
  · subst e
    simp only [if_true] at l
    refine ⟨by simp [Listens, l], ?_⟩
    rw [o.2 (by simp [Listens])]
    simp
  · obtain ⟨a, b⟩ := h.resolve_left e
    rw [if_neg e] at l
    refine ⟨by simpa only [Listens, l] using a, ?_⟩
    rw [o.2 (by simpa only [Listens, port_modPort_ne _ e] using a), port_modPort_ne _ e]
    exact b

/-- Work leaves every port's link state and receive buffer. -/
theorem link_rxBuffer_of_works {s t : State} (h : Works s t) (m : MasterId) :
    (t.port m).link = (s.port m).link ∧ (t.port m).rxBuffer = (s.port m).rxBuffer :=
  have e := port_of_skeleton h.skeleton m
  have link := congrArg Port.link e
  have buffer := congrArg Port.rxBuffer e
  ⟨link, buffer⟩

/-- A LINK_OPEN served leaves its link UP and no frame waiting on it: a frame that comes behind it is the first of the link
it opened. -/
theorem port_openLink (s : State) (m : MasterId) (mode : NoticeMode) (choice : KeepChoice) :
    ((s.openLink m mode choice).port m).link = .up ∧ ((s.openLink m mode choice).port m).rxBuffer = [] := by
  have told (t : State) (f : OutFrame) := link_rxBuffer_of_works (Works.offer .refl m f : Works t (t.offer m f)) m
  have claim (t : State) (f : Grant → GrantFate) :=
    link_rxBuffer_of_works ((works_dropPending t m).trans (works_linkClaim _ m f)) m
  unfold openLink
  simp only
  rw [(link_rxBuffer_of_works (works_finish _) m).1, (link_rxBuffer_of_works (works_finish _) m).2]
  split_ifs <;> simp [told, claim, wake]

/-- What the count of one fault keeps, the count of all that wait keeps. -/
theorem serveFaults_induct {P : State → Prop} (m : MasterId) (h : ∀ t, P t → P (t.countFrameFault m)) {s : State}
    (b : P s) : P (s.serveFaults m) := by
  unfold serveFaults
  generalize (s.port m).rxBuffer.filter Instr.isFrameFault = l
  induction l generalizing s with
  | nil => exact b
  | cons c l ih => exact ih (h s b)

/-- A fault counted, and with it a suspension it brings about, keeps the order of the cases and the free queue. -/
theorem countFrameFault_keeps (m : MasterId) (s : State) (b : s.recallUnit.AgeAgrees ∧ s.FreeQueueAgrees) :
    (s.countFrameFault m).recallUnit.AgeAgrees ∧ (s.countFrameFault m).FreeQueueAgrees := by
  have carry {u t : State} (w : Works u t) (h : u.recallUnit.AgeAgrees ∧ u.FreeQueueAgrees) :
      t.recallUnit.AgeAgrees ∧ t.FreeQueueAgrees := ⟨w.ageAgrees h.1, w.freeQueueAgrees h.2⟩
  have port (u : State) (f : Port → Port) (h : u.recallUnit.AgeAgrees ∧ u.FreeQueueAgrees) :
      (u.modPort m f).recallUnit.AgeAgrees ∧ (u.modPort m f).FreeQueueAgrees := by
    simpa [FreeQueueAgrees] using h
  have told := carry (works_setFault _ m .frameFault) (port s (fun p => { p with frameFaults := p.frameFaults + 1 }) b)
  by_cases l : s.Listens m
  · unfold countFrameFault
    have suspended := carry (works_suspend _ m .frameFaults) (port _ _ told)
    generalize State.setFault _ m .frameFault = u at told suspended
    rcases l with l | l <;> simp only [l]
    all_goals
      split_ifs
      · exact suspended
      · exact told
  · rw [countFrameFault_of_not l]; exact b

theorem serveFaults_keeps (m : MasterId) {s : State} (b : s.recallUnit.AgeAgrees ∧ s.FreeQueueAgrees) :
    (s.serveFaults m).recallUnit.AgeAgrees ∧ (s.serveFaults m).FreeQueueAgrees :=
  serveFaults_induct m (countFrameFault_keeps m) b

/-- A LINK_OPEN finds a link on which no fault waits as it is. -/
theorem serveFaults_of_none {s : State} {m : MasterId} (h : ∀ c ∈ (s.port m).rxBuffer, c.isFrameFault = false) :
    s.serveFaults m = s := by
  unfold serveFaults
  rw [List.filter_eq_nil_iff.mpr fun c e => by simp [h c e]]
  rfl

theorem overrun_suspend (s : State) (m : MasterId) (r : SuspendReason) {j : MasterId} (e : j ≠ m)
    (h : (s.port j).overrun = true) : ((s.suspend m r).port j).overrun = true :=
  ((works_suspend s m r).overrun j).1 (by rw [port_modPort_ne _ e]; exact h)

/-- The suspensions served before a clear: with fuel for every link that is not quiet none is left, and each link that
awaited one is suspended. -/
theorem suspendOverrun_spec : ∀ (n : Nat) (s : State) (quiet : Finset MasterId), (∀ j ∈ quiet, s.Quiet j) →
    4 ≤ n + quiet.card →
    (∀ j, ((suspendOverrun n s).port j).overrun = false) ∧
    ∀ j, (s.port j).overrun = true ∨ (s.port j).link = .suspended → ((suspendOverrun n s).port j).link = .suspended
  | 0, s, quiet, q, le => by
    have all : quiet = Finset.univ := Finset.eq_univ_of_card _ (by
      have := Finset.card_le_univ quiet
      simp only [Fintype.card_fin] at *
      omega)
    have o : ∀ j, (s.port j).overrun = false := fun j => (q j (by rw [all]; exact Finset.mem_univ j)).2
    exact ⟨o, fun j h => h.resolve_left (by simp [o j])⟩
  | n + 1, s, quiet, q, le => by
    rw [suspendOverrun]
    split
    · rename_i e
      have o : ∀ j, (s.port j).overrun = false := fun j => by
        have := List.find?_eq_none.mp e j (by clear q e; revert j; decide)
        simpa using this
      exact ⟨o, fun j h => h.resolve_left (by simp [o j])⟩
    · rename_i m e
      have om : (s.port m).overrun = true := by simpa using List.find?_some e
      have fresh : m ∉ quiet := fun c => by simpa [om] using (q m c).2
      obtain ⟨a, b⟩ := suspendOverrun_spec n (s.suspend m .outboundOverrun) (insert m quiet)
        (fun j h => quiet_suspend _ _ _ _ ((Finset.mem_insert.mp h).imp id (q j)))
        (by rw [Finset.card_insert_of_notMem fresh]; omega)
      refine ⟨a, fun j h => b j ?_⟩
      by_cases c : j = m
      · exact .inr (by rw [link_suspend, if_pos c])
      · exact h.imp (overrun_suspend _ _ _ c) fun l => by rw [link_suspend, if_neg c]; exact l

/-- R165: no suspension is left to serve. -/
theorem serveSuspensions_spec (s : State) :
    (∀ j, (s.serveSuspensions.port j).overrun = false) ∧
    ∀ j, (s.port j).overrun = true → (s.serveSuspensions.port j).link = .suspended :=
  have h := suspendOverrun_spec 4 s ∅ (by simp) (by simp)
  ⟨h.1, fun j o => h.2 j (.inl o)⟩

end State

end Sys2Proof.Machine
end

