-- ==== Sys2Proof/Laws/LinkClaim.lean ====
section
/-! SUPPORT. What a link event's claim does to an entry that is not its concern (R59): it stays, but that a case its RECALLED
grant was attached to may have ended (R105). -/

namespace Sys2Proof.Machine

/-- Between the two states entry i is spared: kept but for a case that ended, not put into the free queue, its handles on no
more tombstone lists; and no case has opened. -/
structure Spares (i : GrantIndex) (s t : State) : Prop where
  entry : s.KeptButDetached t i
  free : i ∉ s.table.freeQueue → i ∉ t.table.freeQueue
  cases : ∀ j, s.caseAt j = none → t.caseAt j = none
  stones : ∀ m h, h.index = i → h ∉ look s.table.tombstones m → h ∉ look t.table.tombstones m

theorem allIndexes_eq : GrantTable.allIndexes = List.finRange 1024 := by
  apply List.ext_getElem
  · simp [GrantTable.allIndexes]
  · intro i h _
    simp only [GrantTable.allIndexes, List.length_map, List.length_range, List.getElem_map, List.getElem_range,
      List.getElem_finRange] at h ⊢
    apply Fin.ext
    simp only [Fin.val_ofNat, Fin.val_cast]
    omega

namespace State.KeptButDetached

theorem gen {s t : State} {i : GrantIndex} (h : s.KeptButDetached t i) :
    (look t.table.entries i).gen = (look s.table.entries i).gen := by
  rcases h with h | ⟨g, c, d, j, -, -, -, h⟩ <;> rw [h]

end State.KeptButDetached

namespace Spares

variable {i : GrantIndex} {s t u : State}

theorem refl : Spares i s s := ⟨.inl rfl, id, fun _ => id, fun _ _ _ => id⟩

theorem trans (h : Spares i s t) (k : Spares i t u) : Spares i s u := by
  refine ⟨?_, k.free ∘ h.free, fun j e => k.cases j (h.cases j e), fun m x e n => k.stones m x e (h.stones m x e n)⟩
  rcases h.entry with a | ⟨g, c, d, j, e, p, n, a⟩ <;> rcases k.entry with b | ⟨g', c', d', j', e', p', n', b⟩
  · exact .inl (b.trans a)
  · rw [a] at e' b
    exact .inr ⟨g', c', d', j', e', p', n', b⟩
  · exact .inr ⟨g, c, d, j, e, p, k.cases j n, b.trans a⟩
  · rw [a] at e'
    cases e'
    cases p'

theorem foldl {α : Type} (f : State → α → State) (h : ∀ t x, Spares i s t → Spares i t (f t x)) :
    ∀ (l : List α) (t : State), Spares i s t → Spares i s (l.foldl f t)
  | [], _, k => k
  | x :: l, t, k => foldl f h l _ (k.trans (h t x k))

/-- Nothing of the table changes, and no case opens. -/
theorem same (a : t.table = s.table) (b : ∀ j, s.caseAt j = none → t.caseAt j = none) : Spares i s t :=
  ⟨.inl (by rw [a]), by rw [a]; exact id, b, by rw [a]; exact fun _ _ _ => id⟩

theorem same' (a : t.table = s.table) (b : t.recallUnit = s.recallUnit) : Spares i s t :=
  same a fun j e => by simpa [State.caseAt, b] using e

theorem modCase (s : State) (k : CaseId) (f : Case → Case) : Spares i s (s.modCase k f) :=
  same rfl fun j e => by
    simp only [State.caseAt, State.recallUnit_modCase, look_put] at *
    split_ifs with c
    · subst c; simp [e]
    · exact e

theorem offer (s : State) (m : MasterId) (f : OutFrame) : Spares i s (s.offer m f) := same' (by simp) (by simp)

theorem returnUnits (s : State) (c : CarrierId) (n : Nat) : Spares i s (s.returnUnits c n) :=
  same' (by simp) (by unfold State.returnUnits; split_ifs <;> rfl)

theorem leaveCarrier (s : State) (c : CarrierId) (h : Handle) (n : Nat) (d : UnitsTo) (v : VictimState)
    (k : Option CaseId) : Spares i s (((s.unlist c h).giveUnits c n d).markAttached h v k) := by
  have a : Spares i s (s.unlist c h) := same' rfl rfl
  have b : ∀ t, Spares i t (t.giveUnits c n d) := fun t => by
    cases d
    · exact returnUnits _ _ _
    · exact modCase _ _ _
    · exact refl
  have e : ∀ t, Spares i t (t.markAttached h v k) := fun t => by
    cases k
    · exact refl
    · exact modCase _ _ _
  exact (a.trans (b _)).trans (e _)

theorem setGrant (s : State) {h : Handle} (n : i ≠ h.index) (g : Grant) : Spares i s (s.setGrant h g) :=
  ⟨.inl (by simp [look_put_ne _ n]), id, fun _ => id, fun _ _ _ => id⟩

theorem recycle (s : State) {j : GrantIndex} (n : i ≠ j) : Spares i s (s.recycle j) := by
  have r : (s.recycle j).recallUnit = s.recallUnit := by simp only [State.recycle]; split_ifs <;> rfl
  exact ⟨.inl (by simp [look_put_ne _ n]), by simpa using fun h => ⟨h, n⟩, fun j e => by simpa [State.caseAt, r] using e,
    fun m h e => by simp⟩

theorem tombstones (s : State) (m : MasterId) (f : List Handle → List Handle)
    (e : ∀ h, h.index = i → h ∉ look s.table.tombstones m → h ∉ f (look s.table.tombstones m)) :
    Spares i s (s.modTombstones m f) :=
  ⟨.inl rfl, id, fun _ => id, fun j h x n => by
    simp only [State.table_modTombstones, look_put]
    split_ifs with c
    · subst c; exact e h x n
    · exact n⟩

theorem freeGrant (s : State) {h : Handle} (n : i ≠ h.index ∨ s.grantAt h = none) : Spares i s (s.freeGrant h) := by
  unfold State.freeGrant
  split
  · exact refl
  · next g e =>
    have n := n.resolve_right (by simp [e])
    split
    · exact (tombstones _ _ _ fun x _ k => fun c => k (List.mem_of_mem_erase c)).trans (recycle _ n)
    all_goals exact (leaveCarrier _ _ _ _ _ _ _).trans (recycle _ n)

/-- A handle of entry i that does not match names no grant. -/
theorem grantAt_none (s : State) {h : Handle} (e : h.index = i) (n : h ≠ ⟨(look s.table.entries i).gen, i⟩) :
    s.grantAt h = none := by
  subst e
  simp only [State.grantAt]
  exact if_neg fun c => n (by rw [c])

theorem addTombstone (s : State) (m : MasterId) {h : Handle} (n : i ≠ h.index)
    (k : ⟨(look s.table.entries i).gen, i⟩ ∉ look s.table.tombstones m) : Spares i s (s.addTombstone m h) := by
  have join : ∀ t : State, Spares i t (t.modTombstones m fun l => l ++ [h]) := fun t =>
    tombstones _ _ _ fun x e a b => by
      rcases List.mem_append.mp b with b | b
      · exact a b
      · rw [List.mem_singleton] at b; exact n (by rw [← e, b])
  simp only [State.addTombstone]
  split
  · exact join _
  · next oldest rest e =>
    split_ifs
    · exact join _
    · rw [e] at k
      refine Spares.trans (Spares.trans (tombstones s m (fun _ => rest) fun x _ a => ?_) (freeGrant _ ?_)) (join _)
      · rw [e] at a; exact fun b => a (List.mem_cons_of_mem _ b)
      · by_cases c : oldest.index = i
        · refine .inr (grantAt_none _ c fun x => k ?_)
          rw [x]; exact List.mem_cons_self
        · exact .inl fun x => c x.symm

theorem revoke (s : State) {h : Handle} (y : RevokeCause) (d : UnitsTo) (n : i ≠ h.index)
    (k : ∀ g, s.grantAt h = some g → ⟨(look s.table.entries i).gen, i⟩ ∉ look s.table.tombstones g.owner) :
    Spares i s (s.revoke h y d) := by
  unfold State.revoke
  split
  · exact refl
  · next g e =>
    have a := (setGrant s n { g with units := 0, phase := .revoked y }).trans
      (leaveCarrier _ g.carrier h g.units d .revoked g.phase.attached)
    have b := a.trans (addTombstone _ g.owner n (by
      rw [a.entry.gen]
      exact a.stones _ _ rfl (k g e)))
    exact (b.trans (offer _ _ _)).trans (same' rfl rfl)

theorem createGrant {s : State} (r : Request) (c : CarrierId) (n : i ∉ s.table.freeQueue) :
    Spares i s (s.createGrant r c) := by
  unfold State.createGrant
  split
  · exact refl
  · next j rest e =>
    rw [e] at n
    have ne : i ≠ j := fun x => n (x ▸ List.mem_cons_self)
    have a := setGrant s (h := ⟨(look s.table.entries j).gen, j⟩) ne
      { owner := r.owner, tag := r.tag, code := r.code, level := r.level, carrier := c, units := r.units,
        phase := s.startPhase r }
    have b : Spares i _ ((s.setGrant ⟨(look s.table.entries j).gen, j⟩ _).setFreeQueue rest) :=
      a.trans ⟨.inl rfl, fun _ x => n (List.mem_cons_of_mem _ x), fun _ => id, fun _ _ _ => id⟩
    let on (k : Carrier) : Carrier := { k with occupancy := k.occupancy ++ [⟨(look s.table.entries j).gen, j⟩] }
    have stats : ∀ t : State, Spares i t (t.countAdmitted r.owner) := fun t => same' rfl rfl
    have list : ∀ t : State, Spares i t (t.modCarrier c on) := fun t => same' rfl rfl
    exact ((b.trans (list _)).trans (offer _ _ _)).trans (stats _)

/-- Detaching changes nothing but the attachment of RECALLED grants of the case. -/
theorem table_detachAll (s : State) (k : CaseId) (x : Case) :
    (s.detachAll k x).table.freeQueue = s.table.freeQueue ∧ (s.detachAll k x).table.tombstones = s.table.tombstones ∧
    ∀ i, look (s.detachAll k x).table.entries i = look s.table.entries i ∨
      ∃ g c d, (look s.table.entries i).grant = some g ∧ g.phase = .recalled c d (some k) ∧
        look (s.detachAll k x).table.entries i =
          ⟨(look s.table.entries i).gen, some { g with phase := .recalled c d none }⟩ := by
  unfold State.detachAll
  induction x.victims generalizing s with
  | nil => exact ⟨rfl, rfl, fun i => .inl rfl⟩
  | cons v l ih =>
    rw [List.foldl_cons]
    obtain ⟨a, b, e⟩ := ih (State.detachVictim k s v)
    have one : (State.detachVictim k s v).table.freeQueue = s.table.freeQueue ∧
        (State.detachVictim k s v).table.tombstones = s.table.tombstones ∧
        ∀ i, look (State.detachVictim k s v).table.entries i = look s.table.entries i ∨
          ∃ g c d, (look s.table.entries i).grant = some g ∧ g.phase = .recalled c d (some k) ∧
            look (State.detachVictim k s v).table.entries i =
              ⟨(look s.table.entries i).gen, some { g with phase := .recalled c d none }⟩ := by
      unfold State.detachVictim
      split <;> try exact ⟨rfl, rfl, fun i => .inl rfl⟩
      split <;> try exact ⟨rfl, rfl, fun i => .inl rfl⟩
      next g at_ =>
        split <;> try exact ⟨rfl, rfl, fun i => .inl rfl⟩
        next c d j p =>
          split_ifs with jk <;> try exact ⟨rfl, rfl, fun i => .inl rfl⟩
          refine ⟨rfl, rfl, fun i => ?_⟩
          by_cases x : i = v.handle.index
          · subst x
            exact .inr ⟨g, c, d, (State.entry_of_grantAt at_).1, by rw [p, jk], by simp⟩
          · exact .inl (by simp [look_put_ne _ x])
    refine ⟨a.trans one.1, b.trans one.2.1, fun i => ?_⟩
    rcases e i with e | ⟨g, c, d, h, p, e⟩ <;> rcases one.2.2 i with f | ⟨g', c', d', h', p', f⟩
    · exact .inl (e.trans f)
    · exact .inr ⟨g', c', d', h', p', e.trans f⟩
    · rw [f] at h e; exact .inr ⟨g, c, d, h, p, e⟩
    · rw [f] at h; cases h; cases p

/-- A case ends: its victims are detached and its record becomes FREE. -/
theorem endCase (s : State) (k : CaseId) (x : Case) : Spares i s ((s.detachAll k x).freeCase k) := by
  obtain ⟨a, b, e⟩ := table_detachAll s k x
  have cases_ : ∀ j, ((s.detachAll k x).freeCase k).caseAt j = if j = k then none else s.caseAt j := fun j => by
    simp [State.freeCase, State.caseAt, look_put]
  refine ⟨?_, by simp [State.freeCase, a], fun j n => by rw [cases_]; split_ifs <;> simp [n],
    by simp [State.freeCase, b]⟩
  rcases e i with e | ⟨g, c, d, h, p, e⟩
  · exact .inl e
  · exact .inr ⟨g, c, d, k, h, p, by rw [cases_, if_pos rfl], e⟩

theorem joinHead (s : State) (r : Request) : Spares i s (s.joinHead r) := by
  refine same' ?_ ?_ <;> cases e : r.level <;>
    simp [State.joinHead, State.announceWaiting, State.reportQueued, State.modList, e]

theorem refuse (s : State) (m : MasterId) (tag : Half) (o : AnswerCode) : Spares i s (s.refuse m tag o) :=
  (offer _ _ _).trans (same' rfl rfl)

theorem trySettle {s : State} (k : CaseId) (n : i ∉ s.table.freeQueue) : Spares i s (s.trySettle k) := by
  unfold State.trySettle
  split
  · exact refl
  · split_ifs
    · exact refl
    · exact ((createGrant _ _ n).trans (endCase _ _ _)).trans (returnUnits _ _ _)
    · simp only [State.closeWithoutGrant]
      split_ifs
      · exact ((endCase _ _ _).trans (returnUnits _ _ _)).trans (joinHead _ _)
      · exact ((endCase _ _ _).trans (returnUnits _ _ _)).trans (refuse _ _ _ _)

theorem trySettleAttached {s : State} (k : Option CaseId) (n : i ∉ s.table.freeQueue) :
    Spares i s (s.trySettleAttached k) := by
  cases k
  · exact refl
  · exact trySettle _ n

theorem abandon (s : State) (k : CaseId) : Spares i s (s.abandon k) := by
  unfold State.abandon
  split
  · exact refl
  · exact (endCase _ _ _).trans (returnUnits _ _ _)

theorem dropPending (s : State) (m : MasterId) : Spares i s (s.dropPending m) :=
  foldl _ (fun t k _ => abandon t k) _ _ (same' rfl rfl)

/-- One grant of the master meets its fate: an entry that is another's, in use, and not on the master's tombstone list is
spared. -/
theorem meetFate (m : MasterId) (fate : Grant → GrantFate) (s : State) {j : GrantIndex} (n : i ≠ j)
    (used : i ∉ s.table.freeQueue) (k : ⟨(look s.table.entries i).gen, i⟩ ∉ look s.table.tombstones m) :
    Spares i s (State.meetFate m fate s j) := by
  unfold State.meetFate
  split
  · exact refl
  · next g e =>
    have at_ : s.grantAt (s.handleOf j) = some g := by simp [State.grantAt, State.handleOf, e]
    split_ifs with o
    · split
      · exact refl
      · have a := freeGrant s (h := s.handleOf j) (.inl n)
        exact a.trans (trySettleAttached _ (a.free used))
      · have a := revoke s (h := s.handleOf j) .orphan g.phase.unitsTo n (fun g' e' => by
          rw [at_] at e'; cases e'; rw [o]; exact k)
        exact a.trans (trySettleAttached _ (a.free used))
    · exact refl

/-- R59: an entry in use, on no place of the master's tombstone list, whose grant is another master's, or has a fate that
keeps it, attached or detached, is spared by the whole claim. -/
theorem linkClaim {m : MasterId} {fate : Grant → GrantFate} {s : State} {g : Grant}
    (e : (look s.table.entries i).grant = some g) (used : i ∉ s.table.freeQueue)
    (k : ⟨(look s.table.entries i).gen, i⟩ ∉ look s.table.tombstones m)
    (kept : g.owner = m → fate g = .kept ∧
      ∀ c d j, g.phase = .recalled c d (some j) → fate { g with phase := .recalled c d none } = .kept) :
    Spares i s (s.linkClaim m fate) := by
  refine foldl _ (fun t j h => ?_) _ _ refl
  by_cases x : i = j
  · subst x
    suffices State.meetFate m fate t i = t by rw [this]; exact refl
    rcases h.entry with a | ⟨g', c, d, n, e', p, -, a⟩
    · unfold State.meetFate
      split
      · rfl
      · next g' e' =>
        rw [a, e] at e'; cases e'
        split_ifs with o
        · simp [(kept o).1]
        · rfl
    · rw [e] at e'; cases e'
      unfold State.meetFate
      split
      · rfl
      · next g' e' =>
        rw [a] at e'; cases e'
        split_ifs with o
        · simp [(kept o).2 c d n p]
        · rfl
  · refine meetFate m fate t x (h.free used) ?_
    rw [h.entry.gen]
    exact h.stones _ _ rfl k

end Spares

end Sys2Proof.Machine
end

