-- ==== Sys2Proof/Laws/Wire.lean ====
section
/-! SUPPORT. Bytes and frames: a two-byte field reads back, a frame as it stands on the wire passes the test of R144. -/

namespace Sys2Proof.Machine

/-- A two-byte field sent most significant byte first reads back as itself (R168). -/
@[simp] theorem half_of_extracts (v : Half) : half (v.extractLsb' 8 8) (v.extractLsb' 0 8) = v := by
  apply BitVec.eq_of_getLsbD_eq
  intro i hi
  simp only [half, BitVec.getLsbD_append, BitVec.getLsbD_extractLsb']
  by_cases h : i < 8
  · simp [h]
  · have h1 : i - 8 < 8 := by omega
    have h2 : 8 + (i - 8) = i := by omega
    simp [h, h1, h2]

@[simp] theorem length_bytes2 (v : BitVec 16) : (bytes2 v).length = 2 := rfl

/-- The test of R144 accepts a body of 4 to 60 bytes that stands behind its length and before its check. -/
theorem testFrame_framed (parse : List Byte → Option Instr) (b : List Byte) (low : 4 ≤ b.length)
    (high : b.length ≤ 60) :
    testFrame parse (BitVec.ofNat 8 b.length) b (bytes2 (crc (BitVec.ofNat 8 b.length :: b))) = parse b := by
  have h : b.length % 256 = b.length := Nat.mod_eq_of_lt (by omega)
  simp [testFrame, h, low, high]

/-- One frame on the wire is its command and leaves no byte over (R144, R167). -/
theorem hunt_framed (parse : List Byte → Option Instr) (fault c : Instr) (b : List Byte) (low : 4 ≤ b.length)
    (high : b.length ≤ 60) (e : parse b = some c) :
    hunt parse fault (framed b).length (framed b) = ([c], []) := by
  have h : (BitVec.ofNat 8 b.length).toNat = b.length := by
    simp only [BitVec.toNat_ofNat]; exact Nat.mod_eq_of_lt (by omega)
  have t := testFrame_framed parse b low high
  rw [e] at t
  simp only [framed, List.cons_append, List.length_cons, hunt, if_true]
  rw [h, if_neg (by simp)]
  rw [List.take_left, List.drop_left, List.take_of_length_le (by simp), t]
  have d : (b ++ bytes2 (crc (BitVec.ofNat 8 b.length :: b))).drop (b.length + 2) = [] := by
    apply List.drop_eq_nil_of_le; simp
  simp only [d]
  cases (b ++ bytes2 (crc (BitVec.ofNat 8 b.length :: b))).length + 1 <;> simp [hunt]

end Sys2Proof.Machine
end

