-- ==== Sys2Proof/Tests/Slice0.lean ====
section
/-! SUPPORT. The model's own tests: the check of Syntax's terms, written-out frames, single steps on small states, and for
every statement with hypotheses a state and operands that meet them, clause by clause, at the ends of their ranges. -/

namespace Sys2Proof.Tests

open Sys2Proof.Machine

set_option maxRecDepth 100000
-- one test after another: all at once they ask for more threads than the sandbox gives
set_option Elab.async false

/-! ### WellFormed: each check refuses its ill-formed term -/

theorem test_wellformed_group_too_few : WellFormed (.configGroup 0 5 2 1 3 [1, 2]) = false := by decide

theorem test_wellformed_group_too_many : WellFormed (.configGroup 0 5 2 1 1 [1, 2]) = false := by decide

theorem test_wellformed_group_thirteen_needs_twelve :
    WellFormed (.configGroup 0 5 2 1 13 [0, 1, 2, 3, 4, 5, 6, 7, 8, 9, 10, 11]) = true := by decide

theorem test_wellformed_known_table : WellFormed (.configUnknownTable 0 5 9 0) = false := by decide

theorem test_wellformed_unknown_table : WellFormed (.configUnknownTable 0 5 10 0) = true ∧
    WellFormed (.configUnknownTable 0 5 0 0) = true := by decide

theorem test_wellformed_known_kind : WellFormed (.queryUnknownKind 0 5 1 0) = false := by decide

theorem test_wellformed_unknown_kind : WellFormed (.queryUnknownKind 0 5 10 0) = true := by decide

theorem test_wellformed_known_depth : WellFormed (.deviceClearUnknownDepth 0 5 2) = false := by decide

theorem test_wellformed_unknown_depth : WellFormed (.deviceClearUnknownDepth 0 5 3) = true := by decide

/-! ### Frames written out from R167 to R172 -/

theorem test_crc_check_value : crc [0x31, 0x32, 0x33, 0x34, 0x35, 0x36, 0x37, 0x38, 0x39] = 0x29B1 := by decide

theorem test_receive_admit :
    receive 1 [0xD3, 0x06, 0x20, 0x0A, 0x10, 0x09, 0x06, 0x01, 0x1C, 0xFC] = ([.admitRequest 1 0x0A10 9 6 1], []) := by
  decide

theorem test_receive_presence :
    receive 2 [0xD3, 0x04, 0x11, 0x00, 0x00, 0x00, 0xF5, 0x19] = ([.presence 2], []) := by decide

theorem test_receive_group_write :
    receive 0 [0xD3, 0x09, 0x40, 0x00, 0x05, 0x02, 0x03, 0x01, 0x02, 0x07, 0x05, 0x56, 0x3D] =
      ([.configGroup 0 5 3 1 2 [7, 5]], []) := by decide

theorem test_receive_clear_full :
    receive 0 [0xD3, 0x04, 0x42, 0x00, 0x01, 0x02, 0x08, 0x8D] = ([.clearFull 0 1], []) := by decide

theorem test_receive_report :
    receiveRadio [0xD3, 0x06, 0xC1, 0x00, 0x00, 0x07, 0x01, 0x90, 0x9E, 0x63] = ([.carrierReport 7 400], []) := by decide

/-- R144: bytes before a sync byte are not counted; a wrong check is a fault, and the hunt goes on behind the sync byte. -/
theorem test_receive_hunts_and_counts :
    receive 2 [0x00, 0x55, 0xD3, 0x04, 0x11, 0x00, 0x00, 0x00, 0xF5, 0x18, 0xD3, 0x04, 0x11, 0x00, 0x00, 0x00, 0xF5, 0x19] =
      ([.frameFault 2, .presence 2], []) := by decide

/-- R144: an incomplete frame waits for its bytes. -/
theorem test_receive_keeps_the_rest : receive 2 [0xD3, 0x04, 0x11] = ([], [0xD3, 0x04, 0x11]) := by decide

/-- R144: a type of the part's own is unknown on the link. -/
theorem test_receive_unknown_type : commandOf 2 [0x81, 0, 0, 0] = none ∧ radioCommandOf [0x11, 0, 0, 0] = none := by decide

/-- Chapter 3's example: ADMITTED of 0x1425 on C5, HELD, under tag 0x0A10. -/
theorem test_send_admitted :
    (OutFrame.answer 0x0A10 .admitted (some ⟨5, 37⟩) (some 5) (some .held) none).bytes =
      [0xD3, 0x0A, 0x81, 0x0A, 0x10, 0x00, 0x07, 0x14, 0x25, 0x05, 0x01, 0x00, 0x99, 0xB8] := by decide

/-- R168: the one frame sent with a filler. -/
theorem test_send_radio_stale : OutFrame.radioStale.bytes = [0xD3, 0x04, 0xA3, 0x00, 0x00, 0x00, 0xE9, 0xA0] := by decide

theorem test_handle_of_the_example : (⟨5, 37⟩ : Handle).toBits = 0x1425 := by decide

/-! ### Small states -/

/-- The link of a master is opened. -/
def up (m : MasterId) (s : State) : State := s.modPort m fun p => { p with link := .up, silence := some 2000 }

def withLink (m : MasterId) (l : LinkState) (s : State) : State := s.modPort m fun p => { p with link := l }

/-- Links 0, which has the right, and 1, which has not, are UP; the radio link too. -/
def ready : State := up 0 (up 1 (State.reset.modRadio fun r => { r with link := .up, silence := some 1000 }))

/-- A grant stands in its entry and on its carrier's list. -/
def withGrant (h : Handle) (g : Grant) (s : State) : State :=
  (s.setEntry h.index ⟨h.gen, some g⟩).modCarrier g.carrier fun k => { k with occupancy := k.occupancy ++ [h] }

def withCase (k : CaseId) (x : Case) (s : State) : State := (s.setCase k (some x)).setAge (s.recallUnit.age ++ [k])

def at_ (t : Time) (s : State) : State := s.modEpoch fun e => { e with timebase := t }

def withClass (c : Fin 64) (k : ServiceClass) (s : State) : State :=
  { s with intake := { s.intake with classes := put s.intake.classes c k } }

def withLevel (l : Load) (s : State) : State := s.modEpoch fun e => { e with level := l }

def opened (c : CarrierId) (nominal guard : Nat) (s : State) : State :=
  s.modCarrier c fun k => { k with state := .opened, nominal := nominal, guard := guard }

/-- A P2 grant of master 1 on C5. -/
def grantOf (phase : GrantPhase) : Grant :=
  { owner := 1, tag := 0x0A10, code := 9, level := .p2, carrier := 5, units := 6, phase := phase }

def h37 : Handle := ⟨5, 37⟩

/-- An E request of master 1 under tag 7 for 20 CU in G2. -/
def request : Request :=
  { owner := 1, tag := 7, code := 2, level := .e, group := 2, units := 20, mode := .direct, holdLimit := 5000,
    waitLimit := 3000, preempt := true }

def caseOf (r : Request) (earmark : Nat) : Case := { req := r, target := 5, earmark := earmark, victims := [], openedAt := 0 }

/-- C5 open with the grant of `grantOf` on it. -/
def holding (phase : GrantPhase) : State := withGrant h37 (grantOf phase) (opened 5 400 10 ready)

def queued (s : State) (m : MasterId) : List OutFrame := (s.port m).queue

def after (c : Instr) (s : State) : State :=
  match exec c s with
  | .next t => t
  | .fault _ => s
  | .refused _ => s

def stepped (s : State) : State :=
  match Machine.step s with
  | .next t => t
  | .fault _ => s
  | .refused _ => s

/-- Sixteen frames wait on link 1 and on the radio link. -/
def full : State :=
  (ready.modPort 1 fun p => { p with rxBuffer := List.replicate 16 (.presence 1) }).modRadio fun q =>
    { q with rxBuffer := List.replicate 16 (.epochTick 5) }

/-! ### Single steps -/

theorem test_step_answers_front :
    queued (after (.clearStats 0 7 0xFF) ready) 0 = [plainAnswer 7 .done] := by decide +kernel

theorem test_admit_unmapped : queued (after (.admitRequest 1 7 3 1 1) ready) 1 = [plainAnswer 7 .unmapped] := by
  decide +kernel

/-- Chapter 3's example: a COMMIT of a held grant, and of a tombstone. -/
theorem test_commit_held :
    queued (after (.commit 1 0x0A11 0x1425) (holding (.held 125000))) 1 =
      [.answer 0x0A11 .committed (some h37) (some 5) (some .active) none] := by decide +kernel

theorem test_commit_of_another : queued (after (.commit 0 1 0x1425) (holding (.held 125000))) 0 =
    [.answer 1 .notOwner (some h37) none none none, .fault ⟨true, false, false⟩] := by decide +kernel

theorem test_query_out_of_range : queued (after (.queryCase 1 4 8) ready) 1 = [plainAnswer 4 .outOfRange] := by
  decide +kernel

theorem test_no_right : queued (after (.clearFull 1 4) ready) 1 = [plainAnswer 4 .noRight] := by decide +kernel

theorem test_eighth_fault_suspends :
    ((ready.modPort 1 fun p => { p with frameFaults := 6 }).countFrameFault 1).port 1 =
      { (ready.port 1) with frameFaults := 7, flags := ⟨false, true, false⟩, queue := [.fault ⟨false, true, false⟩] } := by
  decide +kernel

/-- R16's example, the four choices from C2, C5 and C7 with occupied 290, 352 and 420. -/
def choiceTable : State :=
  let big (c : CarrierId) (u : Nat) : Grant := { grantOf .active with carrier := c, units := u }
  let s := withGrant ⟨0, 0⟩ (big 2 290) (withGrant ⟨0, 1⟩ (big 5 352) (withGrant ⟨0, 2⟩ (big 7 420)
    (opened 2 300 20 (opened 5 400 40 (opened 7 500 30 ready)))))
  let s := s.modCarrier 7 fun k => { k with reported := some 460 }
  let groups := put (put s.pool.groups 3 ⟨[2, 5, 7], some .firstFit⟩) 4 ⟨[2, 5, 7], some .leastLoaded⟩
  { s with pool := { s.pool with groups } }

theorem test_choice_first_fit : choiceTable.chooseCarrier 3 .p2 8 = some 5 ∧ choiceTable.chooseCarrier 3 .p2 12 = none ∧
    choiceTable.chooseCarrier 3 .e 12 = some 5 ∧ choiceTable.chooseCarrier 3 .e 50 = none := by decide +kernel

theorem test_choice_least_loaded : choiceTable.chooseCarrier 4 .p2 8 = some 7 ∧ choiceTable.chooseCarrier 4 .p2 12 = none ∧
    choiceTable.chooseCarrier 4 .e 12 = some 5 ∧ choiceTable.chooseCarrier 4 .e 50 = none := by decide +kernel

/-! ### The hypotheses of the statements -/

theorem test_hyp_StepServesFrontCommand :
    ({ ready with pending := [.pinResetEnd] } : State).pending = Instr.pinResetEnd :: [] := rfl

theorem test_hyp_StepOnEmptyQueue_due :
    (at_ 1000 State.reset).pending = [] ∧ (at_ 1000 State.reset).dueEvent = some .intervalTimerExpiry := by decide +kernel

theorem test_hyp_StepOnEmptyQueue_none :
    State.reset.pending = [] ∧ State.reset.dueEvent = none ∧ State.reset.resetHeld = false ∧
    State.reset.epoch.timebase + 1 < 2 ^ 48 ∧ (at_ 999 State.reset).dueEvent = none ∧
    ({ State.reset with resetHeld := true } : State).dueEvent = none := by decide +kernel

/-- Frames wait on links 0 and 1 and on the radio link. -/
def behind (c0 c1 r : List Instr) : State :=
  ((ready.modPort 0 fun p => { p with rxBuffer := c0 }).modPort 1 fun p => { p with rxBuffer := c1 }).modRadio fun q =>
    { q with rxBuffer := r }

/-- Link 1's frame is the first when link 0 has none, the radio link's when neither has one. -/
theorem test_hyp_StepOnEmptyQueue_waiting :
    (behind [] [.presence 1] []).pending = [] ∧ (behind [] [.presence 1] []).dueEvent = none ∧
    ((behind [] [.presence 1] []).port 0).rxBuffer = [] ∧ ((behind [] [.presence 1] []).port 1).link = .up ∧
    ((behind [] [.presence 1] []).port 1).rxBuffer = .presence 1 :: [] ∧
    (behind [] [.presence 1] [.epochTick 5]).passWaiting.isSome = true ∧
    (behind [] [] [.epochTick 5]).radio.link ≠ .down ∧ (behind [] [] [.epochTick 5]).radio.rxBuffer = .epochTick 5 :: [] ∧
    (behind [] [] []).passWaiting = none ∧ State.reset.radio.link = .down ∧ State.reset.passWaiting = none ∧
    (at_ 999 State.reset).passWaiting = none := by decide +kernel

/-- R145: frames are passed inward in the order of their arrival; the one behind keeps waiting. -/
theorem test_waiting_frames_in_order :
    ((stepped (behind [.clearFault 0 3 0, .clearFault 0 4 0] [] [])).port 0).queue =
      [.answer 3 .done none none none (some {})] ∧
    ((stepped (behind [.clearFault 0 3 0, .clearFault 0 4 0] [] [])).port 0).rxBuffer = [.clearFault 0 4 0] ∧
    ((stepped (stepped (behind [.clearFault 0 3 0, .clearFault 0 4 0] [] []))).port 0).queue =
      [.answer 3 .done none none none (some {}), .answer 4 .done none none none (some {})] := by decide +kernel

/-- R145, R144: the seventeenth frame is a frame fault, counted in its turn; R156: on the radio link it is dropped and not
counted. -/
theorem test_seventeenth_frame :
    ((full.arrive (.presence 1)).port 1).frameFaults = 0 ∧ (full.arrive (.presence 1)).framesWaiting 1 = 16 ∧
    ((full.arrive (.presence 1)).port 1).rxBuffer.getLast? = some (.frameFault 1) ∧
    ((after (.presence 1) full).port 1).rxBuffer.getLast? = some (.frameFault 1) ∧ (full.arrive (.epochTick 9)).radio = full.radio ∧
    (after (.epochTick 9) full).radio = full.radio ∧
    ((behind [] [] []).arrive (.epochTick 9)).radio.rxBuffer = [.epochTick 9] := by decide +kernel

/-- R155: a fault that arrives behind a CLEAR_FAULT that waits is counted behind it: the flag stands, and FAULT is offered. -/
theorem test_fault_behind_clear_fault :
    let s := (behind [.clearFault 0 3 2] [] []).arrive (.frameFault 0)
    (s.port 0).rxBuffer = [.clearFault 0 3 2, .frameFault 0] ∧ (s.port 0).frameFaults = 0 ∧
    (after (.frameFault 0) (behind [.clearFault 0 3 2] [] [])).port 0 = s.port 0 ∧
    ((stepped (stepped s)).port 0).queue =
      [.answer 3 .done none none none (some {}), .fault ⟨false, true, false⟩] ∧
    ((stepped (stepped s)).port 0).flags = ⟨false, true, false⟩ ∧ ((stepped (stepped s)).port 0).frameFaults = 1 ∧
    -- a LINK_OPEN finds it counted; with nothing waiting it is counted at once; a CLEAR_STATE leaves it waiting
    ((s.serveFaults 0).port 0).frameFaults = 1 ∧ ((s.serveFaults 0).port 0).flags = ⟨false, true, false⟩ ∧
    (((behind [] [] []).arrive (.frameFault 0)).port 0).frameFaults = 1 ∧
    (s.clearTraffic.port 0).rxBuffer = [.frameFault 0] := by decide +kernel

/-- Power and RESET_N act in the order of arrival: a LINK_OPEN that comes behind the end of a reset finds it ended. -/
theorem test_pins_in_order (s : State) :
    ((s.arrive (.resetPin 1 false)).arrive .pinResetEnd).arrive (.linkOpen 1 1 1) =
      ((s.resetLow 1 false).resetHigh).takeLinkOpen 1 1 1 := rfl

/-- R145: LINK_OPENs are taken in the order of their arrival; the frames that waited before one are gone, a frame that
comes behind it waits on the link it opened. -/
theorem test_link_opens_in_order (s : State) (h : s.resetHeld = false) :
    (s.arrive (.linkOpen 1 1 1)).arrive (.linkOpen 1 2 2) = (s.takeLinkOpen 1 1 1).takeLinkOpen 1 2 2 ∧
    ((s.arrive (.linkOpen 1 1 1)).port 1).rxBuffer = [] ∧
    (((s.arrive (.linkOpen 1 1 1)).arrive (.presence 1)).port 1).rxBuffer = [.presence 1] := by
  have opened : s.arrive (.linkOpen 1 1 1) = (s.serveFaults 1).openLink 1 .full .keep := by
    change s.takeLinkOpen 1 1 1 = _
    simp [State.takeLinkOpen, h, NoticeMode.ofCode, KeepChoice.ofCode]
  obtain ⟨up, empty⟩ := State.port_openLink (s.serveFaults 1) 1 .full .keep
  refine ⟨rfl, by rw [opened]; exact empty, ?_⟩
  rw [State.arrive_frame (m := 1) rfl, opened]
  simp [State.hold, up, empty, State.framesWaiting, Config.receiveSize, State.joinBuffer, State.wake]

/-- R156: a RADIO_OPEN that finds the radio link DOWN opens it, and a tick behind it waits on the link it opened. -/
theorem test_radio_open_arrives :
    (State.reset.arrive (.radioOpen 4)).radio.link = .up ∧
    ((State.reset.arrive (.radioOpen 4)).arrive (.epochTick 9)).radio.rxBuffer = [.epochTick 9] ∧
    (State.reset.arrive (.epochTick 9)).radio.rxBuffer = [] := by decide +kernel

theorem test_hyp_NothingOverdueWhenTimePasses :
    (at_ 999 ready).pending = [] ∧ (at_ 999 ready).dueEvent = none ∧ (at_ 1000 ready).dueEvent ≠ none ∧
    (at_ 999 ready).passWaiting = none := by decide +kernel

theorem test_hyp_MayWrite : ready.MayWrite 0 := ⟨⟨Or.inl rfl, rfl⟩, rfl⟩

theorem test_hyp_ClearFullIsAPinReset : ready.MayWrite 0 ∧ (0 : Byte).toNat ≠ 1 ∧ (0 : Byte).toNat ≠ 2 ∧
    (3 : Byte).toNat ≠ 1 ∧ (3 : Byte).toNat ≠ 2 := ⟨test_hyp_MayWrite, by decide⟩

theorem test_hyp_ClearStateClearsTraffic :
    (holding .active).MayWrite 0 ∧ (∀ j, ((holding .active).port j).overrun = false) ∧
    (look (holding .active).table.entries 37).grant.isSome = true ∧ (look (holding .active).table.entries 0).grant = none ∧
    ((holding .active).port 1).queue.length + 2 ≤ 64 :=
  ⟨⟨⟨Or.inl rfl, rfl⟩, rfl⟩, by decide, rfl, rfl, by decide⟩

/-- With an overrun that awaits its suspension. -/
theorem test_hyp_ClearStateClearsTraffic_overrun :
    (ready.modPort 1 fun p => { p with overrun := true }).MayWrite 0 ∧
    ((ready.modPort 1 fun p => { p with overrun := true }).port 1).overrun = true :=
  ⟨⟨⟨Or.inl rfl, rfl⟩, rfl⟩, rfl⟩

theorem test_hyp_NoRightChangesNothing :
    WellFormed (.clearStats 1 9 0) = true ∧ (Instr.clearStats 1 9 0).needsRight = some (1, 9) ∧ ready.Serves 1 ∧
    (ready.port 1).configRight = false := ⟨rfl, rfl, ⟨Or.inl rfl, rfl⟩, rfl⟩

theorem test_hyp_ConfigNamesNoEntry :
    (WellFormed (.configUnknownTable 0 9 10 0) = true ∧ (Instr.configUnknownTable 0 9 10 0).needsRight = some (0, 9)) ∧
    (WellFormed (.configThinRatio 0 9 1 4) = true ∧ (Instr.configThinRatio 0 9 1 4).needsRight = some (0, 9) ∧
      (Instr.configThinRatio 0 9 1 4).tableIndex = some (1, 1) ∧ 1 ≤ (1 : Byte).toNat) ∧ ready.MayWrite 0 :=
  ⟨by decide, by decide, test_hyp_MayWrite⟩

/-- Refused by a state of 3, a nominal of 1024, a guard of 256; not by 2, 1023, 255. -/
theorem test_hyp_CarrierWrite_range : (5 : Byte).toNat = (5 : CarrierId).val ∧
    (2 < (3 : Byte).toNat ∧ 1023 < (1024 : Half).toNat ∧ 255 < (256 : Half).toNat) ∧
    ¬(2 < (2 : Byte).toNat ∨ 1023 < (1023 : Half).toNat ∨ 255 < (255 : Half).toNat) := by decide

/-- A guard one above nominal, a nominal one below occupied and OFF with a grant conflict; the equal values do not. -/
theorem test_hyp_CarrierWrite_conflict :
    (holding .active).MayWrite 0 ∧ (holding .active).occupied 5 = 6 ∧ ((holding .active).carrier 5).occupancy ≠ [] ∧
    (10 : Half).toNat < (11 : Half).toNat ∧ ¬(10 : Half).toNat < (10 : Half).toNat ∧ (5 : Half).toNat < 6 ∧
    ¬(6 : Half).toNat < 6 := ⟨⟨⟨Or.inl rfl, rfl⟩, rfl⟩, by decide +kernel, by decide +kernel, by decide⟩

/-- A write that gains room by one and one that gains none. -/
theorem test_hyp_CarrierWrite_accepted :
    CarrierState.opened.code = 1 ∧ ((holding .active).carrier 5).state = .opened ∧
    (holding .active).room 5 .e < ((holding .active).modCarrier 5 fun k => { k with nominal := 401 }).room 5 .e ∧
    (holding .active).room 5 .p1 < ((holding .active).modCarrier 5 fun k => { k with guard := 9 }).room 5 .p1 ∧
    ¬(holding .active).room 5 .e < ((holding .active).modCarrier 5 fun k => { k with nominal := 400 }).room 5 .e := by
  decide +kernel

theorem test_hyp_GroupWrite :
    (15 : Byte).toNat = (15 : GroupId).val ∧ WellFormed (.configGroup 0 1 15 1 1 [11]) = true ∧
    WellFormed (.configGroup 0 1 15 1 0 []) = true ∧ WellFormed (.configGroup 0 1 15 3 1 [12]) = true ∧
    WellFormed (.configGroup 0 1 15 2 2 [4, 4]) = true ∧ ¬([4, 4] : List Byte).Nodup ∧ ([11] : List Byte).Nodup ∧
    11 < (12 : Byte).toNat ∧ ¬11 < (11 : Byte).toNat := by decide

/-- The ends of the ranges, and the first values outside them. -/
theorem test_hyp_ClassWrite : (63 : Byte).toNat ≤ 63 ∧ ¬(64 : Byte).toNat ≤ 63 ∧ (64 : Byte).toNat ≤ 64 ∧
    1 ≤ (1 : Byte).toNat ∧ ¬1 ≤ (0 : Byte).toNat ∧ 100 ≤ (100 : Half).toNat ∧ ¬100 ≤ (99 : Half).toNat ∧
    (30000 : Half).toNat ≤ 30000 ∧ ¬(30001 : Half).toNat ≤ 30000 ∧ (10000 : Half).toNat ≤ 10000 ∧
    ¬(10001 : Half).toNat ≤ 10000 := by decide

/-- An E class needs a wait limit of 100 at least. -/
theorem test_hyp_ClassWrite_constraints :
    ({ ServiceClass.initial with level := .e, preempt := true, waitLimit := 100 } : ServiceClass).Fits ∧
    ¬({ ServiceClass.initial with level := .e, preempt := true, waitLimit := 99 } : ServiceClass).Fits := by
  simp [ServiceClass.Fits, ServiceClass.initial]

theorem test_hyp_MasterWrite :
    ready.MayWrite 0 ∧ (3 : Byte).toNat = (3 : MasterId).val ∧
    (12276 : Half).toNat ≤ 12276 ∧ ¬(12277 : Half).toNat ≤ 12276 ∧ (64 : Byte).toNat ≤ 64 ∧ ¬(65 : Byte).toNat ≤ 64 ∧
    50 ≤ (50 : Half).toNat ∧ ¬50 ≤ (49 : Half).toNat ∧ (2000 : Half).toNat ≤ 2000 ∧ (60000 : Half).toNat ≤ 60000 ∧
    ((ready.modMaster 2 fun r => { r with guaranteed := 76 }).master 2).guaranteed = 76 ∧
    12276 < (12201 : Half).toNat + 76 ∧ (12200 : Half).toNat + 76 ≤ 12276 :=
  ⟨test_hyp_MayWrite, by decide +kernel⟩

theorem test_hyp_SettingWrites : ready.MayWrite 0 ∧ (2 : Byte).toNat = (2 : Fin 3).val ∧
    (1 ≤ (1 : Byte).toNat ∧ (100 : Byte).toNat ≤ 100 ∧ (128 : Byte).toNat ≤ 128 ∧ (99 : Byte).toNat ≤ 99 ∧
      (127 : Byte).toNat ≤ 127 ∧ ¬(129 : Byte).toNat ≤ 128) ∧ ((59 : Byte).toNat < (60 : Byte).toNat) ∧
    ¬(60 : Byte).toNat < (60 : Byte).toNat ∧ (15 : Byte).toNat ≤ 15 ∧ 15 < (16 : Byte).toNat ∧
    (99 : Half).toNat < 100 ∧ 5000 < (5001 : Half).toNat ∧ (1 : Byte).toNat < 2 ∧ 16 < (17 : Byte).toNat ∧
    (199 : Half).toNat < 200 := ⟨test_hyp_MayWrite, by decide⟩

theorem test_hyp_ClearStats : ready.MayWrite 0 ∧ (3 : Byte).toNat = (3 : MasterId).val ∧ 3 < (4 : Byte).toNat ∧
    (4 : Byte).toNat ≠ 0xFF ∧ (254 : Byte).toNat ≠ 0xFF := ⟨test_hyp_MayWrite, by decide⟩

theorem test_hyp_ClearFault : ready.Serves 1 := ⟨Or.inl rfl, rfl⟩

theorem test_hyp_QueriesReplyByKind : ready.Serves 1 ∧ (11 : Half).toNat = (11 : CarrierId).val ∧ 12 ≤ (12 : Half).toNat ∧
    (63 : Half).toNat = (63 : Fin 64).val ∧ 64 ≤ (64 : Half).toNat ∧ (7 : Half).toNat = (7 : CaseId).val ∧
    9 < (10 : Byte).toNat ∧ (0 : Byte).toNat = 0 := ⟨⟨Or.inl rfl, rfl⟩, by decide⟩

/-- The last group; a FREE case and an open one, with a victim of a third master. -/
theorem test_hyp_QueriesReplyByKind_case : (15 : Half).toNat = (15 : GroupId).val ∧ ready.caseAt 7 = none ∧
    (withCase 7 { caseOf request 4 with victims := [⟨h37, 6, .notified⟩] } ready).caseAt 7 =
      some { caseOf request 4 with victims := [⟨h37, 6, .notified⟩] } := by decide +kernel

/-- R108: a case's requester sees its tag, not a victim's handle that is another's. -/
theorem test_query_case_withholds :
    queued (after (.queryCase 1 4 0) (withCase 0 { caseOf request 4 with victims := [⟨⟨0, 0⟩, 6, .notified⟩] }
      (withGrant ⟨0, 0⟩ { grantOf (.recalled .preempt 9 (some 0)) with owner := 2 } ready))) 1 =
      [.queryReply 4 5 0 0 true [.b1 1, .b1 1, .b1 0, .b2 20, .b1 2, .b1 5, .b2 4, .b6 0, .b2 1, .b2 6, .b1 1, .b2 7,
        .b2 0xFFFF]] := by decide +kernel

/-- Master 1 has no right and owns the grant; master 0 has the right. -/
theorem test_hyp_QueryOwnerCheck :
    (holding .active).Serves 1 ∧ ((holding .active).port 1).configRight = false ∧
    ((holding .active).port 0).configRight = true ∧
    (holding .active).grantAt (.ofBits 0x1425) = some (grantOf .active) ∧
    (holding .active).grantAt (.ofBits 0x1825) = none ∧
    (withGrant h37 { grantOf .active with owner := 2 } ready).grantAt (.ofBits 0x1425) =
      some { grantOf .active with owner := 2 } := ⟨⟨Or.inl rfl, rfl⟩, by decide +kernel⟩

theorem test_hyp_QueriesChangeNothing : (Instr.queryEpoch 1 4 0).queryFields = some (1, 4, 6, 0) ∧ ready.Serves 1 ∧
    (ready.modPort 1 fun p => { p with overrun := true }).Serves 1 := ⟨rfl, ⟨Or.inl rfl, rfl⟩, ⟨Or.inl rfl, rfl⟩⟩

theorem test_hyp_ReplyParts : ([byteField 1] : List ReplyField) ≠ [] := by decide

/-- Class 3, valid, P2, gated at STRAINED, thinned; master 1 waits under tag 7, and a case of it is open under tag 8. -/
def intakeState : State :=
  let entry : WaitEntry := { req := { request with level := .p2, group := 0 }, deadline := 3000 }
  let s := withClass 3 { ServiceClass.initial with valid := true, gate := .strained, maxUnits := 64, thin := true } ready
  withCase 0 (caseOf { request with tag := 8 } 4) (s.modList .p2 1 fun l => l ++ [entry])

theorem test_hyp_IntakeRefusals :
    intakeState.Serves 1 ∧ 63 < (64 : Byte).toNat ∧ (3 : Byte).toNat = (3 : Fin 64).val ∧
    (look intakeState.intake.classes 3).valid = true ∧ (look intakeState.intake.classes 63).valid = false ∧
    (look intakeState.intake.classes 3).maxUnits = 64 ∧ (65 : Byte).toNat = 65 ∧
    intakeState.pendingCount 1 = 2 ∧ (intakeState.master 1).pendingLimit = 32 :=
  ⟨⟨Or.inl rfl, rfl⟩, by decide +kernel⟩

theorem test_hyp_IntakeRefusals_duplicate : intakeState.WaitsUnder 1 7 ∧ intakeState.CaseUnder 1 8 0 ∧
    ¬intakeState.WaitsUnder 1 9 ∧ ¬∃ j, intakeState.CaseUnder 1 9 j := by
  refine ⟨Or.inr (Or.inr ⟨_, List.mem_singleton.mpr rfl, rfl⟩), ⟨_, rfl, rfl, rfl⟩, ?_, ?_⟩
  · rintro (⟨w, h, _⟩ | ⟨w, h, _⟩ | ⟨w, h, e⟩)
    · cases h
    · cases h
    · obtain rfl := List.mem_singleton.mp h
      revert e; decide
  · rintro ⟨j, x, e, _, t⟩
    match j with
    | 0 => obtain rfl := Option.some.inj e.symm; revert t; decide
    | 1 | 2 | 3 | 4 | 5 | 6 | 7 => cases e

/-- The limit is reached at 2 and not at 3; the gate of STRAINED refuses at STRAINED and not at NORMAL. -/
theorem test_hyp_IntakeRefusals_later :
    (((intakeState.modMaster 1 fun r => { r with pendingLimit := 2 }).master 1).pendingLimit ≤ 2) ∧
    ¬(((intakeState.modMaster 1 fun r => { r with pendingLimit := 3 }).master 1).pendingLimit ≤ 2) ∧
    GateRefuses .strained .strained ∧ ¬GateRefuses .strained .normal ∧ ¬GateRefuses .none .critical := by
  refine ⟨by decide +kernel, by decide +kernel, Or.inl ⟨rfl, by decide⟩, ?_, ?_⟩ <;> simp [GateRefuses]

/-- A thinned class with gate NONE at CRITICAL, its counter at 0 and at 1; and at CONGESTED. -/
def thinState (l : Load) (n : Nat) : State :=
  let s := withLevel l (withClass 3 { ServiceClass.initial with valid := true, maxUnits := 4, thin := true } ready)
  { s with intake := { s.intake with thinning := put s.intake.thinning 1 (put (look s.intake.thinning 1) 3 n) } }

theorem test_hyp_PassedRequestIsDecided :
    (thinState .critical 1).Serves 1 ∧ AdmitMode.hold.code = 1 ∧ (look (thinState .critical 1).intake.classes 3).valid = true ∧
    (look (thinState .critical 1).intake.classes 3).thin = true ∧ (thinState .critical 1).epoch.level = .critical ∧
    (thinState .critical 1).thinningOf 1 3 = 1 ∧ (thinState .critical 0).thinningOf 1 3 = 0 ∧
    (thinState .congested 1).epoch.level ≠ .critical ∧
    (thinState .critical 1).pendingCount 1 < ((thinState .critical 1).master 1).pendingLimit ∧
    1 ≤ (4 : Byte).toNat ∧ (4 : Byte).toNat ≤ (look (thinState .critical 1).intake.classes 3).maxUnits :=
  ⟨⟨Or.inl rfl, rfl⟩, by decide +kernel⟩

theorem test_hyp_PassedRequestIsDecided_free (n : Nat) (l : Load) : ¬(thinState l n).WaitsUnder 1 7 ∧
    (¬∃ j, (thinState l n).CaseUnder 1 7 j) ∧ ¬GateRefuses (look (thinState l n).intake.classes 3).gate l := by
  refine ⟨?_, ?_, ?_⟩
  · rintro (⟨w, h, _⟩ | ⟨w, h, _⟩ | ⟨w, h, _⟩) <;> cases h
  · rintro ⟨j, x, e, _⟩
    match j with
    | 0 | 1 | 2 | 3 | 4 | 5 | 6 | 7 => cases e
  · simp [GateRefuses, thinState, withLevel, withClass, ServiceClass.initial]

/-- A P3 request one unit above the ceiling and at it; a full free queue; a table with 32 entries left. -/
theorem test_hyp_AdmissionDecisionSteps :
    ((ready.modMaster 1 fun r => { r with ceiling := 19 }).master 1).ceiling < 0 + 20 ∧
    ¬((ready.modMaster 1 fun r => { r with ceiling := 20 }).master 1).ceiling < 0 + 20 ∧
    ready.table.freeQueue.length = 1024 ∧
    ((ready.setFreeQueue ((List.range 32).map (Fin.ofNat 1024))).table.freeQueue.length = 32) ∧
    ready.chooseCarrier 2 .e 20 = none ∧ choiceTable.chooseCarrier 3 .e 12 = some 5 ∧ ready.caseAttempt request = none ∧
    ready.storeCount < 160 := by decide +kernel

theorem test_hyp_JoiningAList : request.level ≠ .p3 ∧ request.level = .e := by decide

/-- Log 26: a P1 request with wait limit 0 that returns from a case is due at once. -/
theorem test_return_with_wait_limit_zero :
    look ((at_ 700 ready).joinHead { request with level := .p1, waitLimit := 0 }).waiting.p1Lists 1 =
      [{ req := { request with level := .p1, waitLimit := 0 }, deadline := 700 }] ∧
    ((at_ 700 ready).joinHead { request with level := .p1, waitLimit := 0 }).dueEvent = some (.waitExpiry 1 7) := by
  decide +kernel

theorem test_hyp_CarrierChoice : (choiceTable.group 4).mode = some .leastLoaded ∧
    (choiceTable.group 4).members = [2, 5] ++ 7 :: [] ∧ choiceTable.room 2 .p2 = 0 ∧ choiceTable.room 5 .p2 = 8 ∧
    choiceTable.room 7 .p2 = 10 ∧ (choiceTable.carrier 7).state = .opened ∧ (choiceTable.carrier 7).isOver = false ∧
    (choiceTable.group 3).mode = some .firstFit := by decide +kernel

theorem test_hyp_RoomOfACarrier : (choiceTable.carrier 7).reported = some 460 ∧ (choiceTable.carrier 5).reported = none ∧
    (choiceTable.modCarrier 7 fun k => { k with reported := some 419 }).effective 7 < choiceTable.occupied 7 := by
  decide +kernel

theorem test_hyp_GrantCreation : (ready.setFreeQueue [37, 4]).table.freeQueue = 37 :: [4] := rfl

theorem test_hyp_HandlesNameEntries : (holding .active).grantAt h37 = some (grantOf .active) := by decide +kernel

theorem test_hyp_HandleAndOwnerChecks :
    (holding .active).Serves 0 ∧ (holding .active).grantAt (.ofBits 0x1425) = some (grantOf .active) ∧
    (grantOf .active).owner ≠ 0 ∧ (holding .active).grantAt (.ofBits 0) = none ∧
    ((holding .active).port 0).flags.keyFault = false ∧
    (((holding .active).modPort 0 fun p => { p with flags := ⟨true, false, false⟩ }).port 0).flags.keyFault = true :=
  ⟨⟨Or.inl rfl, rfl⟩, by decide +kernel⟩

/-- The owner's grant in each state. -/
theorem test_hyp_CommitByState (phase : GrantPhase) :
    (holding phase).Serves 1 ∧ (holding phase).grantAt (.ofBits 0x1425) = some (grantOf phase) ∧
    (grantOf phase).owner = 1 ∧ (grantOf phase).phase = phase := ⟨⟨Or.inl rfl, rfl⟩, rfl, rfl, rfl⟩

theorem test_hyp_ReleaseByState :
    (holding (.recalled .preempt 9 (some 2))).Serves 1 ∧
    (grantOf (.recalled .preempt 9 (some 2))).phase = .recalled .preempt 9 (some 2) ∧
    (grantOf (.recalled .shed 9 none)).phase = .recalled .shed 9 none := ⟨⟨Or.inl rfl, rfl⟩, rfl, rfl⟩

theorem test_hyp_FreeingAnEntry :
    (holding (.recalled .preempt 9 (some 2))).grantAt h37 = some (grantOf (.recalled .preempt 9 (some 2))) ∧
    (withCase 2 (caseOf request 4) (holding (.recalled .preempt 9 (some 2)))).caseAt 2 = some (caseOf request 4) ∧
    (holding (.recalled .preempt 9 (some 2))).caseAt 2 = none ∧
    (holding (.revoked .deadline)).grantAt h37 = some (grantOf (.revoked .deadline)) := by decide +kernel

/-- Sixteen tombstones of master 1, the oldest in entry 0. -/
def sixteen : State :=
  (withGrant ⟨0, 0⟩ (grantOf (.revoked .deadline)) (holding .active)).modTombstones 1 fun _ =>
    ⟨0, 0⟩ :: (List.range 15).map fun i => ⟨1, Fin.ofNat 1024 (i + 1)⟩

theorem test_hyp_RevokingAGrant :
    (look (holding .active).table.tombstones 1).length < 16 ∧ sixteen.grantAt h37 = some (grantOf .active) ∧
    (look sixteen.table.tombstones 1).length = 16 ∧ (look sixteen.table.tombstones 1).head? = some ⟨0, 0⟩ ∧
    (⟨0, 0⟩ : Handle) ∉ (look sixteen.table.tombstones 1).tail ∧
    sixteen.grantAt ⟨0, 0⟩ = some (grantOf (.revoked .deadline)) ∧ (0 : GrantIndex) ≠ h37.index ∧
    (look sixteen.table.tombstones 1).tail.length = 15 := by decide +kernel

/-- R57 step 3, R13: the 6 units of a grant to the pool, into case 2's earmark, nowhere. -/
theorem test_units_of_a_revoke :
    let s := withCase 2 (caseOf request 4) (holding .active)
    (s.revoke h37 .orphan .pool).engine.due = [5] ∧
    ((s.revoke h37 .deadline (.earmark 2)).caseAt 2).map Case.earmark = some 10 ∧
    (s.revoke h37 .deadline (.earmark 2)).engine.due = [] ∧
    (s.revoke h37 .holdBroken .nowhere).occupied 5 = 4 ∧ (s.revoke h37 .holdBroken .nowhere).engine.due = [] := by
  decide +kernel

theorem test_hyp_CancelEndsThePendingRequest : intakeState.Serves 1 ∧ intakeState.WaitsUnder 1 7 ∧
    ¬intakeState.WaitsUnder 1 8 ∧ intakeState.CaseUnder 1 8 0 ∧ (∀ j, intakeState.CaseUnder 1 8 j → j = 0) ∧
    ¬intakeState.WaitsUnder 1 9 ∧ ∀ j, ¬intakeState.CaseUnder 1 9 j := by
  refine ⟨⟨Or.inl rfl, rfl⟩, test_hyp_IntakeRefusals_duplicate.1, ?_, test_hyp_IntakeRefusals_duplicate.2.1, ?_,
    test_hyp_IntakeRefusals_duplicate.2.2.1, fun j h => test_hyp_IntakeRefusals_duplicate.2.2.2 ⟨j, h⟩⟩
  · rintro (⟨w, h, _⟩ | ⟨w, h, _⟩ | ⟨w, h, e⟩)
    · cases h
    · cases h
    · obtain rfl := List.mem_singleton.mp h
      revert e; decide
  · rintro j ⟨x, e, _⟩
    match j with
    | 0 => rfl
    | 1 | 2 | 3 | 4 | 5 | 6 | 7 => cases e

theorem test_hyp_CancelEndsThePendingRequest_case : intakeState.caseAt 0 = some (caseOf { request with tag := 8 } 4) ∧
    (intakeState.abandon 0).engine.due = [5] ∧ (intakeState.abandon 0).caseAt 0 = none := by decide +kernel

theorem test_hyp_HoldAndRecallExpiries :
    (holding (.held 0)).grantAt (.ofBits 0x1425) = some (grantOf (.held 0)) ∧ 0 ≤ (holding (.held 0)).now ∧
    (holding (.held 1)).now < 1 ∧ (holding .active).grantAt (.ofBits 0x1425) = some (grantOf .active) ∧
    (holding (.recalled .shed 0 none)).grantAt (.ofBits 0x1425) = some (grantOf (.recalled .shed 0 none)) := by
  decide +kernel

theorem test_hyp_WaitExpiryEndsTheEntry :
    (intakeState.findWaiting 1 7).isSome = true ∧ intakeState.findWaiting 1 9 = none ∧
    (∀ w ∈ intakeState.findWaiting 1 7, w.deadline = 3000) ∧ (at_ 3000 intakeState).now = 3000 ∧
    (at_ 2999 intakeState).now < 3000 := by decide +kernel

/-- G2 names C5, which is full of master 1's P2 grant, recallable for the E request. -/
def attemptState : State :=
  let s := withGrant h37 { grantOf .active with units := 20 } (opened 5 20 0 ready)
  { s with pool := { s.pool with groups := put s.pool.groups 2 ⟨[5], some .firstFit⟩ } }

theorem test_hyp_CaseAttemptChoice :
    attemptState.findPlan request = some { target := 5, room := 0, holds := [], victims := [h37], direct := false } := by
  decide +kernel

/-- The same with C5's 20 CU held: room and the hold cover the need. -/
def directState : State :=
  let s := withGrant h37 { grantOf (.held 900) with units := 20 } (opened 5 20 0 ready)
  { s with pool := { s.pool with groups := put s.pool.groups 2 ⟨[4, 5], some .firstFit⟩ } }

/-- A direct plan behind a member that fails; a full case table; the lowest FREE record behind an open one; a request one
unit above what C5 gives, and at it. -/
theorem test_hyp_CaseAttemptChoice_records :
    directState.findPlan request = some { target := 5, room := 0, holds := [h37], victims := [], direct := true } ∧
    directState.planOn request 4 = none ∧
    (∀ k, (List.foldl (fun s k => withCase k (caseOf request 4) s) ready allCases).caseAt k ≠ none) ∧
    ready.findPlan request = none ∧ intakeState.caseAt 1 = none ∧ (∀ j : CaseId, j < 1 → intakeState.caseAt j ≠ none) ∧
    attemptState.planOn { request with units := 21 } 5 = none ∧ (attemptState.planOn request 5).isSome = true := by
  decide +kernel

theorem test_hyp_RecallForACase :
    (withCase 2 (caseOf request 4) (holding .active)).grantAt h37 = some (grantOf .active) ∧
    (withCase 2 (caseOf request 4) (holding .active)).caseAt 2 = some (caseOf request 4) := by decide +kernel

/-- An earmark one below the need and at it; 33 and 32 entries left for a P1 request, whose queue has space. -/
theorem test_hyp_SettlingACase :
    (withCase 2 (caseOf request 19) ready).caseAt 2 = some (caseOf request 19) ∧ (caseOf request 19).earmark < request.units ∧
    request.units ≤ (caseOf request 20).earmark ∧ 1 ≤ ready.table.freeQueue.length ∧
    (ready.setFreeQueue []).table.freeQueue.length < 1 ∧ ready.storeCount < 160 := by decide +kernel

/-- Case 2 waits for the recalled grant; with 128 entries of P1 and P2 no P1 request finds space. -/
def collecting : State :=
  withCase 2 { caseOf request 4 with victims := [⟨h37, 6, .notified⟩] } (holding (.recalled .preempt 9 (some 2)))

theorem test_hyp_SettlingACase_detach :
    collecting.grantAt h37 = some (grantOf (.recalled .preempt 9 (some 2))) ∧
    (collecting.abandon 2).grantAt h37 = some (grantOf (.recalled .preempt 9 none)) ∧
    (look collecting.table.entries 0).grant = none ∧
    (ready.modList .p1 0 fun _ => List.replicate 128 ⟨request, 9⟩).priorityCount = 128 := by decide +kernel

theorem test_hyp_OffersTakeFromTheHeads : (ready.carrier 5).state ≠ .opened ∧
    ((ready.modCarrier 5 fun k => { k with isOver := true }).carrier 5).isOver = true := by decide +kernel

/-- An E entry of master 1 for C5's group waits on a C5 with 400 CU, or full of a P2 grant that a case may recall, or of an
E grant that none may. -/
def eWaiting (s : State) : State :=
  ({ s with pool := { s.pool with groups := put s.pool.groups 2 ⟨[5], some .firstFit⟩ } } : State).modList .e 1 fun l =>
    l ++ [⟨request, 9000⟩]

def p1Waiting (s : State) : State :=
  ({ s with pool := { s.pool with groups := put s.pool.groups 2 ⟨[5], some .firstFit⟩ } } : State).modList .p1 1 fun l =>
    l ++ [⟨{ request with level := .p1 }, 9000⟩]

def withE (u : Nat) : State := withGrant h37 { grantOf .active with level := .e, units := u } (opened 5 u 0 ready)

def overAt5 (s : State) : State := s.modCarrier 5 fun k => { k with isOver := true }

/-- An episode that ends and one that does not; master 1 with its ceiling at its 6 CU, and one below. -/
theorem test_hyp_Offers_closing :
    (overAt5 (holding .active)).occupied 5 ≤ (overAt5 (holding .active)).effective 5 ∧
    ¬(overAt5 ((holding .active).modCarrier 5 fun k => { k with nominal := 5 })).occupied 5 ≤ 5 ∧
    (overAt5 (holding .active)).finish.carrier 5 = (holding .active).carrier 5 ∧
    (holding .active).nonEUnits 1 = 6 ∧
    (((holding .active).modMaster 1 fun r => { r with ceiling := 5 }).finish.master 1).quotaExcess = true ∧
    queued ((holding .active).modMaster 1 fun r => { r with ceiling := 5 }).finish 1 = [.fault ⟨false, false, true⟩] ∧
    (((holding .active).modMaster 1 fun r => { r with ceiling := 6 }).finish.master 1).quotaExcess = false := by
  decide +kernel

/-- The due list, empty and not, with a retry due and not; C5 OVER and not. -/
theorem test_hyp_Offers_continuation :
    ready.engine.due = [] ∧ ready.engine.retryDue = false ∧ (ready.addDue 5).engine.due = 5 :: [] ∧
    (ready.modEngine fun e => { e with retryDue := true }).engine.retryDue = true ∧
    ((overAt5 ready).carrier 5).isOver = true ∧ (ready.carrier 5).isOver = false ∧
    queued ((eWaiting (opened 5 400 10 ready)).addDue 5).continuation 1 =
      [.answer 7 .admitted (some ⟨0, 0⟩) (some 5) (some .active) none] := by decide +kernel

/-- R64, R100: a case on C5 takes 16 of its 390 CU for its need of 20 and settles; one on another carrier takes none. -/
theorem test_hyp_Offers_topUp :
    (withCase 2 (caseOf request 4) (opened 5 400 10 ready)).caseAt 2 = some (caseOf request 4) ∧
    (caseOf request 4).target = 5 ∧ (caseOf request 4).target ≠ 4 ∧
    (State.topUp 5 (withCase 2 (caseOf request 4) (opened 5 400 10 ready)) 2).caseAt 2 = none ∧
    ((State.topUp 5 (withCase 2 (caseOf request 4) (opened 5 14 10 ready)) 2).caseAt 2).map Case.earmark = some 14 := by
  decide +kernel

/-- An older case of a P1 request and a younger one of an E request, for 20 CU each, on C5 with a guard of 10 CU. -/
def twoCases (nominal : Nat) : State :=
  withCase 3 (caseOf request 0) (withCase 2 (caseOf { request with level := .p1 } 0) (opened 5 nominal 10 ready))

/-- R100, R106: while the older P1 case stays short the younger E case takes nothing, of the guard neither; once the P1 case
has settled, the E case takes the guard and what is left. -/
theorem test_hyp_Offers_inTurn :
    (State.topUp 5 (twoCases 10) 2).caseAt 2 ≠ none ∧ (State.topUp 5 (twoCases 30) 2).caseAt 2 = none ∧
    (((twoCases 10).stage1 5).caseAt 3).map Case.earmark = some 0 ∧ (State.topUp 5 (twoCases 10) 3).room 5 .e = 0 ∧
    (((twoCases 25).stage1 5).caseAt 2).map Case.earmark = some 15 ∧
    (((twoCases 25).stage1 5).caseAt 3).map Case.earmark = some 0 ∧
    ((twoCases 30).stage1 5).caseAt 2 = none ∧ (((twoCases 30).stage1 5).caseAt 3).map Case.earmark = some 10 := by
  decide +kernel

/-- A head that fits; one that does not, for which a case opens, or none can; no attempt without a free entry. -/
theorem test_hyp_Offers_stage2 :
    (eWaiting (opened 5 400 10 ready)).waiting.eList = ⟨request, 9000⟩ :: [] ∧
    (eWaiting (opened 5 400 10 ready)).fits 5 request = true ∧ (eWaiting attemptState).fits 5 request = false ∧
    (eWaiting attemptState).table.freeQueue ≠ [] ∧ ((eWaiting attemptState).caseAttempt request).isSome = true ∧
    (eWaiting (withE 20)).fits 5 request = false ∧ (eWaiting (withE 20)).caseAttempt request = none ∧
    ((eWaiting (withE 20)).setFreeQueue []).table.freeQueue = [] ∧
    ((eWaiting (withE 20)).setFreeQueue []).fits 5 request = false ∧ ready.waiting.eList = [] := by decide +kernel

/-- The same for the P1 list of master 1; without preempt there is no attempt, and with 32 entries left none. -/
theorem test_hyp_Offers_rotation :
    look (p1Waiting ready).waiting.p1Lists 1 = ⟨{ request with level := .p1 }, 9000⟩ :: [] ∧
    look (p1Waiting ready).waiting.p1Lists 0 = [] ∧
    (p1Waiting (opened 5 400 10 ready)).fits 5 { request with level := .p1 } = true ∧
    ((p1Waiting (opened 5 400 10 ready)).lists 5).engine.p1Pointer = 2 ∧
    (p1Waiting attemptState).fits 5 { request with level := .p1 } = false ∧ request.preempt = true ∧
    33 ≤ (p1Waiting attemptState).table.freeQueue.length ∧
    ((p1Waiting attemptState).caseAttempt { request with level := .p1 }).isSome = true ∧
    (p1Waiting (withE 20)).fits 5 { request with level := .p1 } = false ∧
    (p1Waiting (withE 20)).caseAttempt { request with level := .p1 } = none ∧
    ¬33 ≤ ((p1Waiting attemptState).setFreeQueue ((List.range 32).map (Fin.ofNat 1024))).table.freeQueue.length := by
  decide +kernel

theorem test_hyp_CarrierReportServed_radio : (holding .active).RadioServes := ⟨Or.inl rfl, rfl⟩

/-- A case on C4 rolled back: to C5 at once, to C5 as a case, to its list, and, with the store full, refused. -/
theorem test_hyp_CarrierReportServed_rollback :
    let moved (s : State) := withCase 0 { caseOf request 4 with target := 4 } s
    let full (s : State) := s.modList .e 0 fun _ => List.replicate 160 ⟨request, 9⟩
    (moved ready).caseAt 0 = some { caseOf request 4 with target := 4 } ∧
    (directState.findPlan request).map Plan.direct = some true ∧
    (attemptState.findPlan request).map Plan.direct = some false ∧
    ((State.rollback 4 (moved directState) 0).caseAt 0) = none ∧
    ((State.rollback 4 (moved attemptState) 0).caseAt 0).map Case.target = some 5 ∧
    (State.rollback 4 (moved ready) 0).waiting.eList = [⟨request, 3000⟩] ∧ (full ready).storeCount = 160 ∧
    queued (State.rollback 4 (moved (full ready)) 0) 1 = [plainAnswer 7 .noCapacity] ∧
    (look (State.rollback 4 (moved ready) 0).recallUnit.shed 4).casesRolledBack = 1 := by decide +kernel

/-- C5 with 6 CU occupied of 400: reports of 6 and 5, a rise, and the same on an OVER carrier. -/
theorem test_hyp_CarrierReportServed :
    (holding .active).radio.link = .up ∧ 11 < (12 : Byte).toNat ∧ (5 : Byte).toNat = (5 : CarrierId).val ∧
    (65535 : Half).toNat = 65535 ∧
    ((holding .active).modCarrier 5 fun k => { k with reported := some 5 }).effective 5 < (holding .active).occupied 5 ∧
    ¬((holding .active).modCarrier 5 fun k => { k with reported := some 6 }).effective 5 < (holding .active).occupied 5 ∧
    ((holding .active).modCarrier 5 fun k => { k with reported := some 400 }).effective 5 = (holding .active).effective 5 ∧
    ((holding .active).carrier 5).state ≠ .off ∧ ((holding .active).carrier 5).isOver = false := by decide +kernel

theorem test_hyp_SheddingSparesEmergencies :
    (withGrant h37 { grantOf .active with level := .e } ready).grantAt h37 = some { grantOf .active with level := .e } ∧
    ∀ m, h37 ∉ look (withGrant h37 { grantOf .active with level := .e } ready).table.tombstones m := by decide +kernel

/-- R110, R115 to R118: C5 falls to 4 CU below what it holds: a hold is broken, a grant recalled, an E grant advised. -/
theorem test_handoff_sheds :
    let fall (s : State) := after (.carrierReport 5 2) s
    let e := { grantOf .active with level := .e }
    ((fall (holding (.held 900))).grantAt h37).map Grant.phase = some (.revoked .holdBroken) ∧
    (look (fall (holding (.held 900))).recallUnit.shed 5).holdsBroken = 1 ∧
    ((fall (holding (.held 900))).carrier 5).isOver = false ∧
    ((fall (holding .active)).grantAt h37).map Grant.phase = some (.recalled .shed 250 none) ∧
    (look (fall (holding .active)).recallUnit.shed 5) = ⟨4, 0, 1, 0, 0⟩ ∧ ((fall (holding .active)).carrier 5).isOver = true ∧
    queued (fall (withGrant h37 e (opened 5 400 10 ready))) 1 = [.moveAdvised h37] ∧
    ((fall (withGrant h37 e (opened 5 400 10 ready))).carrier 5).marks = [h37] ∧
    queued (State.advise 5 (fall (withGrant h37 e (opened 5 400 10 ready))) h37) 1 = [.moveAdvised h37] := by
  decide +kernel

theorem test_not_listening (s : State) (e : (s.port 2).link = .down) : ¬s.Listens 2 := by simp [State.Listens, e]

/-- A link that is DOWN, one that is STALE, one with 15 frames waiting, one with 16; the same for the radio link. -/
theorem test_hyp_FramesServedByLinkState :
    WellFormed (.commit 2 1 0) = true ∧ (Instr.commit 2 1 0).frameOn = some 2 ∧ ¬ready.Listens 2 ∧
    (withLink 1 .stale ready).Serves 1 ∧ State.reset.radio.link = .down ∧ full.Listens 1 ∧
    16 ≤ full.framesWaiting 1 ∧
    (full.modPort 1 fun p => { p with rxBuffer := List.replicate 15 (.presence 1) }).framesWaiting 1 < 16 ∧
    ready.RadioServes ∧ 16 ≤ full.radio.rxBuffer.length ∧ full.resetHeld = false ∧
    (full.modRadio fun r => { r with rxBuffer := List.replicate 15 (.epochTick 5) }).radio.rxBuffer.length < 16 :=
  ⟨rfl, rfl, test_not_listening _ rfl, ⟨Or.inr rfl, rfl⟩, rfl, Or.inl rfl, by decide +kernel, by decide +kernel,
    ⟨Or.inl rfl, rfl⟩, by decide +kernel⟩

theorem test_hyp_LinkOpenServed : State.reset.resetHeld = false ∧ NoticeMode.full.code = 1 ∧ NoticeMode.quiet.code = 2 ∧
    (1 : Byte).toNat = 1 ∧ (2 : Byte).toNat = 2 ∧ (0 : Byte).toNat ≠ 1 ∧ (3 : Byte).toNat ≠ 2 ∧
    (∀ c ∈ (full.port 1).rxBuffer, c.isFrameFault = false) := by decide +kernel

/-- R59: at a suspension and under KEEP a RECALLED grant stays, with its deadline; its owner's case is abandoned first. -/
theorem test_recalled_grants_kept :
    let s := collecting.dropPending 1
    (collecting.port 1).link = .up ∧ s.grantAt h37 = some (grantOf (.recalled .preempt 9 none)) ∧
    (State.meetFate 1 fateAtSuspension s 37).grantAt h37 = some (grantOf (.recalled .preempt 9 none)) ∧
    (State.meetFate 1 fateAtKeep s 37).grantAt h37 = some (grantOf (.recalled .preempt 9 none)) ∧
    (State.meetFate 1 fateAtForget s 37).grantAt h37 = none := by decide +kernel

theorem test_hyp_LinkOpenServed_recalled :
    (look collecting.table.entries 37).grant = some (grantOf (.recalled .preempt 9 (some 2))) ∧
    collecting.CaseUnder 1 7 2 := ⟨by decide +kernel, _, rfl, rfl, rfl⟩

theorem test_hyp_AgeAgrees : State.reset.recallUnit.AgeAgrees ∧ intakeState.recallUnit.AgeAgrees := by
  unfold Recall.AgeAgrees
  decide +kernel

/-- Link 1 with its orphan timer at a stage. -/
def orphaning (l : LinkState) (x : OrphanStage) : State :=
  ready.modPort 1 fun p => { p with link := l, silence := none, orphan := some (10000, x) }

theorem test_hyp_LinkTimerExpiries :
    (ready.port 1).silence = some 2000 ∧ 2000 ≤ (at_ 2000 ready).now ∧ (at_ 1999 ready).now < 2000 ∧
    ((orphaning .stale .one).port 1).orphan = some (10000, .one) ∧ ((orphaning .stale .one).port 1).link = .stale ∧
    ((orphaning .orphaned .two).port 1).orphan = some (10000, .two) ∧ 10000 ≤ (at_ 10000 (orphaning .orphaned .two)).now ∧
    ready.radio.silence = some 1000 ∧ 1000 ≤ (at_ 1000 ready).now := by decide +kernel

/-- A grant in use: its entry has left the free queue. -/
def inUse (h : Handle) (g : Grant) (s : State) : State :=
  (withGrant h g s).setFreeQueue (s.table.freeQueue.filter fun i => i ≠ h.index)

theorem entry_inUse (h : Handle) (g : Grant) (s : State) (i : GrantIndex) :
    look (inUse h g s).table.entries i = if i = h.index then ⟨h.gen, some g⟩ else look s.table.entries i := by
  simp [inUse, withGrant, look_put]

theorem freeQueueAgrees_inUse {s : State} (h : Handle) (g : Grant) (b : s.FreeQueueAgrees) :
    (inUse h g s).FreeQueueAgrees := by
  refine ⟨b.1.filter _, fun i => ?_⟩
  simp only [inUse, withGrant, State.table_setFreeQueue, State.table_modCarrier, State.table_setEntry, List.mem_filter,
    look_put, b.2 i]
  split_ifs with c <;> simp [c]

theorem freeQueueAgrees_reset : State.reset.FreeQueueAgrees := by
  refine ⟨?_, fun i => ?_⟩
  · rw [show State.reset.table.freeQueue = List.finRange 1024 from allIndexes_eq]
    exact List.nodup_finRange 1024
  · have free : (look State.reset.table.entries i).grant = none := by simp [State.reset, State.initial, look]
    have listed : i ∈ State.reset.table.freeQueue := by
      rw [show State.reset.table.freeQueue = List.finRange 1024 from allIndexes_eq]
      exact List.mem_finRange i
    exact iff_of_true listed free

/-- A HELD P2 grant and an ACTIVE level E grant of master 1, both in use. -/
def owning (s : State) : State :=
  inUse h37 (grantOf (.held 900)) (inUse ⟨0, 38⟩ { grantOf .active with level := .e } s)

/-- An orphan stage finds a grant that it takes and one that it leaves; what it takes fits the tombstone list. -/
theorem test_hyp_LinkTimerExpiries_grants :
    let s := owning (orphaning .stale .one)
    let e : Grant := { grantOf .active with level := .e }
    let taken (i : GrantIndex) : Bool :=
      match (look s.table.entries i).grant with
      | some g => decide (g.owner = 1) && match g.phase with
        | .held _ | .recalled .. => true
        | .active => decide (g.level ≠ .e)
        | .revoked _ => false
      | none => false
    s.FreeQueueAgrees ∧ s.recallUnit.AgeAgrees ∧ (look s.table.entries 37).grant = some (grantOf (.held 900)) ∧
    taken 37 = true ∧ (look s.table.entries 38).grant = some e ∧ e.owner = 1 ∧ taken 38 = false ∧
    (look s.table.tombstones 1).length + ((List.finRange 1024).filter taken).length ≤ 16 := by
  refine ⟨freeQueueAgrees_inUse _ _ (freeQueueAgrees_inUse _ _ freeQueueAgrees_reset), test_hyp_AgeAgrees.1,
    by decide +kernel, by decide +kernel, by decide +kernel, rfl, by decide +kernel, ?_⟩
  refine le_trans (Nat.add_le_add_left (m := 1) ?_ _) (by decide +kernel)
  refine (List.subperm_of_subset ((List.nodup_finRange _).filter _) (l₂ := [37]) fun i h => ?_).length_le
  have h := (List.mem_filter.mp h).2
  by_cases a : i = 37
  · exact List.mem_singleton.mpr a
  · by_cases b : i = 38
    · subst b; revert h; decide +kernel
    · have free : look (owning (orphaning .stale .one)).table.entries i = ⟨0, none⟩ := by
        rw [owning, entry_inUse, entry_inUse, if_neg (show i ≠ h37.index from a), if_neg b]
        simp [orphaning, ready, up, State.reset, State.initial, look]
      simp [free] at h

/-- For LINK_OPEN and suspension: grants of the link's master that go and that stay, and another master's. -/
theorem test_hyp_LinkOpenServed_grants :
    let s := owning (inUse ⟨0, 39⟩ { grantOf (.recalled .preempt 9 (some 2)) with owner := 2 } ready)
    s.FreeQueueAgrees ∧ s.recallUnit.AgeAgrees ∧ (look s.table.entries 37).grant = some (grantOf (.held 900)) ∧
    (look s.table.entries 38).grant = some { grantOf .active with level := .e } ∧
    (look s.table.entries 39).grant = some { grantOf (.recalled .preempt 9 (some 2)) with owner := 2 } ∧
    ((look s.table.entries 39).grant.map Grant.owner) ≠ some 1 :=
  ⟨freeQueueAgrees_inUse _ _ (freeQueueAgrees_inUse _ _ (freeQueueAgrees_inUse _ _ freeQueueAgrees_reset)),
    test_hyp_AgeAgrees.1, by decide +kernel⟩

/-- R59: what each event does to one grant of link 1's master. -/
theorem test_fates_met :
    let e : Grant := { grantOf .active with level := .e }
    let s := withGrant ⟨0, 38⟩ e (holding (.held 900))
    let gone := some { grantOf (.revoked .orphan) with units := 0 }
    (State.meetFate 1 fateAtStage1 s 37).grantAt h37 = gone ∧
    (State.meetFate 1 fateAtStage1 s 38).grantAt ⟨0, 38⟩ = some e ∧
    (State.meetFate 1 fateAtStage2 s 38).grantAt ⟨0, 38⟩ =
      some { e with units := 0, phase := .revoked .orphan } ∧
    look (State.meetFate 1 fateAtStage1 s 37).table.tombstones 1 = [h37] ∧
    queued (State.meetFate 1 fateAtStage1 s 37) 1 = [.revokedNotice h37 .orphan] ∧
    look (State.meetFate 1 fateAtSuspension s 37).table.entries 37 = ⟨6, none⟩ ∧
    (State.meetFate 1 fateAtSuspension s 37).engine.due = [5] ∧
    ((State.meetFate 1 fateAtSuspension s 37).carrier 5).occupancy = [⟨0, 38⟩] ∧
    State.meetFate 2 fateAtForget s 37 = s := by
  refine ⟨?_, ?_, ?_, ?_, ?_, ?_, ?_, ?_, ?_⟩
  case refine_9 => simp [State.meetFate, holding, withGrant, h37, look_put, grantOf]
  all_goals decide +kernel

theorem test_hyp_LinkTimerExpiries_age : (orphaning .stale .one).recallUnit.AgeAgrees := test_hyp_AgeAgrees.1

theorem test_hyp_FaultsAndSuspension :
    ready.Listens 1 ∧ ¬ready.Listens 2 ∧ (ready.port 1).frameFaults + 1 < 8 ∧
    8 ≤ ((ready.modPort 1 fun p => { p with frameFaults := 7 }).port 1).frameFaults + 1 ∧
    ((ready.modPort 1 fun p => { p with frameFaults := 6 }).port 1).frameFaults + 1 < 8 ∧
    ((ready.modPort 1 fun p => { p with overrun := true }).port 1).overrun = true ∧ (ready.port 1).overrun = false ∧
    (full.port 1).rxBuffer ≠ [] ∧ (ready.port 1).rxBuffer = [] ∧ full.Listens 1 := by
  exact ⟨Or.inl rfl, test_not_listening _ rfl, by decide +kernel, by decide +kernel, by decide +kernel, by decide +kernel,
    by decide +kernel, by decide +kernel, rfl, Or.inl rfl⟩

/-- Queues at 47, 48, 63 and 64 frames; radio queues at 7 and 8. -/
theorem test_hyp_OffersToOutboundQueues :
    (List.replicate 47 OutFrame.radioStale).length < 48 ∧ ¬(List.replicate 48 OutFrame.radioStale).length < 48 ∧
    (List.replicate 63 OutFrame.radioStale).length < 64 ∧ ¬(List.replicate 64 OutFrame.radioStale).length < 64 ∧
    OutFrame.radioStale.isAdvisory = true ∧ (OutFrame.moveAdvised h37).isAdvisory = false ∧
    (ready.port 1).overrun = false ∧ (ready.port 1).link = .up ∧ ((withLink 1 .orphaned ready).port 1).link = .orphaned ∧
    ready.radio.link ≠ .down ∧
    [RadioFrame.radioHello 0 .powerOn 0] ++ .occupancy 0 [] :: List.replicate 6 (.occupancy 1 []) =
      RadioFrame.radioHello 0 .powerOn 0 :: .occupancy 0 [] :: List.replicate 6 (.occupancy 1 []) ∧
    (RadioFrame.radioHello 0 .powerOn 0).isOccupancy = false := by decide +kernel

theorem test_hyp_TransmittersAndRadio :
    ((ready.enqueue 1 .radioStale).port 1).queue = .radioStale :: [] ∧ ((ready.enqueue 1 .radioStale).port 1).sending = none ∧
    (ready.port 1).queue = [] ∧ ready.resetHeld = false ∧ ({ ready with resetHeld := true } : State).resetHeld = true := by
  decide +kernel

def inState (x : EpochState) (s : State) : State :=
  s.modEpoch fun e => { e with state := x, intervalTimer := some 1000, lossTimer := some 3000, number := 63 }

theorem test_hyp_TicksAndEpochTimers :
    ready.radio.link = .up ∧ (0 : Fin 64).val = (64 : Byte).toNat % 64 ∧ (0 : Fin 64) = (inState .follow ready).epoch.number + 1 ∧
    (1 : Fin 64) ≠ (inState .follow ready).epoch.number + 1 ∧ (inState .follow ready).epoch.state = .follow ∧
    (inState .followLost ready).epoch.state = .followLost ∧ ready.epoch.state = .source ∧
    ready.epoch.intervalTimer = some 1000 ∧ (at_ 999 ready).epoch.timebase < 1000 ∧
    (inState .follow ready).epoch.lossTimer = some 3000 := by decide +kernel

/-- The reset thresholds: 70 rises from NORMAL, 69 with 7 waiting does not; 59 with 1 waiting is calm at STRAINED. -/
theorem test_evaluation_boundaries :
    State.reset.epoch.evaluated ⟨70, 0, false⟩ = (.strained, 0) ∧ State.reset.epoch.evaluated ⟨69, 7, false⟩ = (.normal, 0) ∧
    State.reset.epoch.evaluated ⟨0, 8, false⟩ = (.strained, 0) ∧ State.reset.epoch.evaluated ⟨0, 0, true⟩ = (.strained, 0) ∧
    (withLevel .strained State.reset).epoch.evaluated ⟨59, 1, false⟩ = (.strained, 1) ∧
    (withLevel .strained State.reset).epoch.evaluated ⟨60, 1, false⟩ = (.strained, 0) ∧
    ((withLevel .strained State.reset).modEpoch fun e => { e with fallCount := 2 }).epoch.evaluated ⟨59, 1, false⟩ =
      (.normal, 0) ∧
    (withLevel .congested State.reset).epoch.evaluated ⟨0, 0, true⟩ = (.congested, 0) := by decide +kernel

theorem test_hyp_ReceivedFramesAreTheirCommands :
    WellFormed (.presence 2) = true ∧ controllerFrame (.presence 2) = some (2, [0x11, 0, 0, 0]) ∧
    radioHeadFrame (.epochTick 9) = some [0xC2, 0, 0, 9] ∧
    -- the shortest and the longest body, the kinds, tables and depths beside those listed, twelve members and none
    4 ≤ ([0x11, 1, 2] ++ [9] : List Byte).length ∧ ([0x11, 1, 2] ++ List.replicate 57 9 : List Byte).length ≤ 60 ∧
    (0 : Byte).toNat = 0 ∧ 9 < (10 : Byte).toNat ∧ (3 : Byte).toNat ≠ 1 ∧ (3 : Byte).toNat ≠ 2 ∧
    (List.replicate 12 (1 : Byte)).length = min (13 : Byte).toNat 12 ∧
    ([] : List Byte).length = min (0 : Byte).toNat 12 := by decide

/-- A step that answers a next state, for the statements about every step; from a state with the invariants. -/
theorem test_hyp_step : ∃ t, Machine.step { ready with pending := [.radioFrameFault] } = .next t := ⟨_, rfl⟩

theorem test_hyp_QueuesAndFaultCountsStayBounded :
    ready.QueuesBounded ∧ ready.RadioQueueBounded ∧ ready.FaultsBounded := by
  refine ⟨?_, ?_, ?_⟩
  · intro m
    match m with
    | 0 | 1 | 2 | 3 => exact Nat.zero_le _
  · exact ⟨Nat.zero_le _, Nat.zero_le _⟩
  · intro m
    match m with
    | 0 | 1 | 2 | 3 => exact ⟨Nat.zero_le _, fun _ => Nat.zero_lt_succ _⟩

/-- Sixteen frames are within the bound, and so is none on a link that is DOWN. -/
theorem test_hyp_QueuesAndFaultCountsStayBounded_own : full.BuffersOwn := by
  unfold State.BuffersOwn
  decide +kernel

theorem test_hyp_QueuesAndFaultCountsStayBounded_buffers : full.BuffersBounded := by
  refine ⟨fun m => ?_, by decide +kernel, by decide +kernel⟩
  match m with
  | 0 => exact ⟨by decide +kernel, fun _ => rfl⟩
  | 1 => exact ⟨by decide +kernel, fun h => absurd (Or.inl rfl) h⟩
  | 2 | 3 => exact ⟨by decide +kernel, fun _ => rfl⟩

theorem test_hyp_StoreAndTombstonesStayBounded : ready.StoreBounded ∧ ready.TombstonesBounded := by
  refine ⟨⟨by decide +kernel, by decide +kernel⟩, ?_⟩
  intro m
  match m with
  | 0 | 1 | 2 | 3 => exact Nat.zero_le _

theorem test_hyp_TimersStayInAgreement : ready.LinkTimersAgree ∧ ready.EpochTimersAgree := by
  refine ⟨?_, ⟨rfl, rfl⟩⟩
  intro m
  match m with
  | 0 | 1 => exact ⟨rfl, rfl⟩
  | 2 | 3 => exact ⟨rfl, rfl⟩

theorem test_hyp_FreeQueueAndAgeStayInAgreement :
    State.reset.FreeQueueAgrees ∧ State.reset.recallUnit.AgeAgrees := by
  exact ⟨freeQueueAgrees_reset, test_hyp_AgeAgrees.1⟩

/-- The first boundary after reset raises the level, every carrier being OFF (R134). -/
theorem test_hyp_LevelMovesOneStep :
    WellFormed .intervalTimerExpiry = true ∧
    (after .intervalTimerExpiry (at_ 1000 State.reset)).epoch.level = .strained ∧
    (at_ 1000 State.reset).epoch.level = .normal ∧ (at_ 1000 State.reset).pending = [] := by decide +kernel

/-- A clear that waits in a receive buffer takes the level to NORMAL. -/
theorem test_hyp_LevelMovesOneStep_waiting :
    let s := withLevel .strained (behind [.clearState 0 9] [] [])
    s.pending = [] ∧ s.dueEvent = none ∧ s.epoch.level = .strained ∧ (stepped s).epoch.level = .normal ∧
    (s.port 0).rxBuffer.head? = some (.clearState 0 9) ∧ WellFormed (.clearState 0 9) = true ∧ (s.port 0).link = .up := by
  decide +kernel

theorem test_hyp_SettingsChangeOnlyByRight :
    (after (.configThinRatio 0 9 0 5) ready).settings ≠ ready.settings := by
  intro h
  have e : (after (.configThinRatio 0 9 0 5) ready).intake.thinRatio = ready.intake.thinRatio :=
    congrArg Settings.thinRatio h
  revert e
  decide +kernel

/-- A CONFIG that waits in its own link's buffer changes a setting when it is passed inward. -/
theorem test_hyp_SettingsChangeOnlyByRight_waiting :
    let s := behind [.configThinRatio 0 9 0 5] [] []
    s.BuffersOwn ∧ s.pending = [] ∧ s.dueEvent = none ∧ (stepped s).settings ≠ s.settings ∧ s.Listens 0 ∧
    (s.port 0).configRight = true := by
  refine ⟨?_, by decide +kernel, by decide +kernel, fun h => ?_, Or.inl rfl, by decide +kernel⟩
  · unfold State.BuffersOwn
    decide +kernel
  · have e := congrArg Settings.thinRatio h
    revert e
    decide +kernel

theorem test_hyp_ClaimsKeepTheSkeleton : (Instr.commit 1 2 3 = .commit 1 2 3) ∧ ready.Serves 1 := ⟨rfl, ⟨Or.inl rfl, rfl⟩⟩

end Sys2Proof.Tests
end

section
/-! The carrier choice (R16): the members a choice may return, and which of them each mode returns. -/

namespace Sys2Proof.Machine

namespace State

/-- R16: the carrier may be chosen: it is OPEN and not OVER, and has room for the units. -/
def Covers (s : State) (l : Level) (u : Nat) (c : CarrierId) : Prop :=
  (s.carrier c).state = .opened ∧ (s.carrier c).isOver = false ∧ u ≤ s.room c l

/-- What the choice tests of each member is `Covers`. -/
theorem eligible_and_room_iff_covers (s : State) (l : Level) (u : Nat) (c : CarrierId) :
    (s.eligible c && decide (u ≤ s.room c l)) = true ↔ s.Covers l u c := by
  simp [eligible, Covers, and_assoc]

/-- Of a list of carriers those that may be chosen, in list order. -/
def fitting (s : State) (l : Level) (u : Nat) (xs : List CarrierId) : List CarrierId :=
  xs.filter fun c => s.eligible c && decide (u ≤ s.room c l)

theorem mem_fitting {s : State} {l : Level} {u : Nat} {xs : List CarrierId} {c : CarrierId} :
    c ∈ s.fitting l u xs ↔ c ∈ xs ∧ s.Covers l u c := by
  rw [fitting, List.mem_filter, eligible_and_room_iff_covers]

theorem fitting_eq_nil {s : State} {l : Level} {u : Nat} {xs : List CarrierId} (h : ∀ c ∈ xs, ¬s.Covers l u c) :
    s.fitting l u xs = [] :=
  List.filter_eq_nil_iff.mpr fun c hc => mt (eligible_and_room_iff_covers s l u c).mp (h c hc)

theorem fitting_append_cons {s : State} {l : Level} {u : Nat} {c : CarrierId} (hc : s.Covers l u c)
    (before after : List CarrierId) :
    s.fitting l u (before ++ c :: after) = s.fitting l u before ++ c :: s.fitting l u after := by
  unfold fitting
  rw [List.filter_append, List.filter_cons_of_pos]
  exact (eligible_and_room_iff_covers s l u c).mpr hc

theorem chooseCarrier_of_firstFit {s : State} {g : GroupId} (e : (s.group g).mode = some .firstFit) (l : Level) (u : Nat) :
    s.chooseCarrier g l u = (s.fitting l u (s.group g).members).head? := by
  simp [chooseCarrier, fitting, e]

theorem chooseCarrier_of_leastLoaded {s : State} {g : GroupId} (e : (s.group g).mode = some .leastLoaded) (l : Level)
    (u : Nat) : s.chooseCarrier g l u = s.roomiest l (s.fitting l u (s.group g).members) := by
  simp [chooseCarrier, fitting, e]

/-- In every mode, and without one, no member to choose means no carrier. -/
theorem chooseCarrier_eq_none {s : State} {g : GroupId} {l : Level} {u : Nat} (e : s.fitting l u (s.group g).members = []) :
    s.chooseCarrier g l u = none := by
  rcases hm : (s.group g).mode with _ | _ | _
  · simp [chooseCarrier, hm]
  · simp [chooseCarrier_of_firstFit hm, e]
  · simp [chooseCarrier_of_leastLoaded hm, e, roomiest]

theorem roomiest_mem {s : State} {l : Level} {xs : List CarrierId} {d : CarrierId} (h : s.roomiest l xs = some d) :
    d ∈ xs := by
  induction xs generalizing d with
  | nil => simp [roomiest] at h
  | cons c rest ih =>
    rw [roomiest] at h
    split at h
    next => simp_all
    next d' e =>
      split at h
      · obtain rfl := Option.some.inj h
        exact List.mem_cons_of_mem _ (ih e)
      · simp_all

/-- No carrier behind it has more room, so the head is the roomiest. -/
theorem roomiest_head {s : State} {l : Level} {c : CarrierId} {after : List CarrierId}
    (h : ∀ d ∈ after, s.room d l ≤ s.room c l) : s.roomiest l (c :: after) = some c := by
  rw [roomiest]
  split
  next => rfl
  next d e => exact if_neg (Nat.not_lt.mpr (h d (roomiest_mem e)))

/-- R16: the roomiest has more room than every carrier before it, and no less than every one behind it. -/
theorem roomiest_eq {s : State} {l : Level} {c : CarrierId} {before after : List CarrierId}
    (hb : ∀ d ∈ before, s.room d l < s.room c l) (ha : ∀ d ∈ after, s.room d l ≤ s.room c l) :
    s.roomiest l (before ++ c :: after) = some c := by
  induction before with
  | nil => exact roomiest_head ha
  | cons b rest ih =>
    rw [List.forall_mem_cons] at hb
    simp [roomiest, ih hb.2, hb.1]

end State

/-- Settles O25: the choice looks only at the members that `Covers` admits, by the group's mode. -/
theorem carrierChoice : Obligations.CarrierChoice := by
  intro g l u s
  refine ⟨fun none_covers => ?_, fun firstFit before c after members none_before covers => ?_,
    fun leastLoaded before c after members covers less_before le_after => ?_⟩
  · exact State.chooseCarrier_eq_none (State.fitting_eq_nil none_covers)
  · rw [State.chooseCarrier_of_firstFit firstFit, members, State.fitting_append_cons covers,
      State.fitting_eq_nil none_before, List.nil_append, List.head?_cons]
  · rw [State.chooseCarrier_of_leastLoaded leastLoaded, members, State.fitting_append_cons covers]
    refine State.roomiest_eq (fun d hd => ?_) fun d hd => ?_
    · obtain ⟨listed, covers_d⟩ := State.mem_fitting.mp hd
      exact less_before d listed covers_d
    · obtain ⟨listed, covers_d⟩ := State.mem_fitting.mp hd
      exact le_after d listed covers_d

end Sys2Proof.Machine
end

section
/-! A group write (R22): what its member bytes and its mode byte spell, and the write's two outcomes. -/

namespace Sys2Proof.Machine

theorem numberBelow_eq_some_iff {n v : Nat} {i : Fin n} : numberBelow n v = some i ↔ i.val = v := by
  refine ⟨fun h => ?_, fun e => numberBelow_eq i e.symm⟩
  unfold numberBelow at h
  split at h
  next => exact congrArg Fin.val (Option.some.inj h).symm
  next => cases h

/-- The first byte names the first carrier, and the others name the others. -/
theorem carriersNamed_cons_eq_some_iff {b : Byte} {rest : List Byte} {l : List CarrierId} :
    carriersNamed (b :: rest) = some l ↔
      ∃ c l', c.val = b.toNat ∧ carriersNamed rest = some l' ∧ c :: l' = l := by
  rw [carriersNamed]
  constructor
  · intro h
    split at h
    next c l' hc hl' => exact ⟨c, l', numberBelow_eq_some_iff.mp hc, hl', Option.some.inj h⟩
    next => cases h
  · rintro ⟨c, l', hc, hl', rfl⟩
    rw [numberBelow_eq_some_iff.mpr hc, hl']

/-- The member bytes name the carriers whose numbers they are, in order. -/
theorem carriersNamed_eq_some_iff {members : List Byte} {l : List CarrierId} :
    carriersNamed members = some l ↔ l.map (fun c => c.val) = members.map BitVec.toNat := by
  induction members generalizing l with
  | nil => cases l <;> simp [carriersNamed]
  | cons b rest ih =>
    simp only [carriersNamed_cons_eq_some_iff, ih, List.map_cons, List.map_eq_cons_iff]
    exact ⟨fun ⟨c, l', hc, hl', e⟩ => ⟨c, l', e.symm, hc, hl'⟩, fun ⟨c, l', e, hc, hl'⟩ => ⟨c, l', hc, hl', e.symm⟩⟩

/-- Bytes of which one is above 11 name no carriers. -/
theorem carriersNamed_of_above {members : List Byte} (h : ∃ b ∈ members, 11 < b.toNat) :
    carriersNamed members = none := by
  obtain ⟨b, hb, above⟩ := h
  refine Option.eq_none_iff_forall_ne_some.mpr fun l named => ?_
  have e := carriersNamed_eq_some_iff.mp named
  have : b.toNat ∈ l.map fun c => c.val := e ▸ List.mem_map_of_mem hb
  obtain ⟨c, -, hc⟩ := List.mem_map.mp this
  omega

/-- Bytes of which none is above 11 name carriers. -/
theorem carriersNamed_of_within {members : List Byte} (h : ∀ b ∈ members, b.toNat ≤ 11) :
    ∃ l, carriersNamed members = some l := by
  induction members with
  | nil => exact ⟨[], rfl⟩
  | cons b rest ih =>
    rw [List.forall_mem_cons] at h
    obtain ⟨l, e⟩ := ih h.2
    exact ⟨⟨b.toNat, by omega⟩ :: l, carriersNamed_cons_eq_some_iff.mpr ⟨_, l, rfl, e, rfl⟩⟩

/-- The carriers named repeat exactly when the bytes do. -/
theorem nodup_of_carriersNamed {members : List Byte} {l : List CarrierId} (h : carriersNamed members = some l) :
    l.Nodup ↔ members.Nodup := by
  have e := carriersNamed_eq_some_iff.mp h
  calc l.Nodup ↔ (l.map fun c => c.val).Nodup := (List.nodup_map_iff Fin.val_injective).symm
    _ ↔ (members.map BitVec.toNat).Nodup := by rw [e]
    _ ↔ members.Nodup := List.nodup_map_iff BitVec.toNat_injective

theorem GroupMode.ofCode_of_unlisted {b : Byte} (h : b.toNat ≠ 1 ∧ b.toNat ≠ 2) : GroupMode.ofCode b = none := by
  unfold GroupMode.ofCode
  split <;> simp_all

theorem GroupMode.exists_code_eq {b : Byte} (h : ¬(b.toNat ≠ 1 ∧ b.toNat ≠ 2)) : ∃ x : GroupMode, x.code = b := by
  have listed : b.toNat = 1 ∨ b.toNat = 2 := by omega
  rcases listed with e | e
  · exact ⟨.firstFit, BitVec.eq_of_toNat_eq e.symm⟩
  · exact ⟨.leastLoaded, BitVec.eq_of_toNat_eq e.symm⟩

/-- R22: the list or the mode of a group write is outside its range. -/
def GroupWriteRefused (mode count : Byte) (members : List Byte) : Prop :=
  count.toNat = 0 ∨ 12 < count.toNat ∨ (∃ b ∈ members, 11 < b.toNat) ∨ ¬members.Nodup ∨
    (mode.toNat ≠ 1 ∧ mode.toNat ≠ 2)

namespace State

theorem answer_eq_offer (s : State) (m : MasterId) (tag : Half) (o : AnswerCode) :
    s.answer m tag o = s.offer m (plainAnswer tag o) := rfl

theorem writeGroup_of_refused {mode count : Byte} {members : List Byte} (h : GroupWriteRefused mode count members)
    (s : State) (m : MasterId) (tag : Half) (g : GroupId) :
    s.writeGroup m tag g mode count members = s.answer m tag .outOfRange := by
  unfold writeGroup
  split
  next x l hx hl =>
    refine if_pos ?_
    rcases h with empty | long | above | repeated | unlisted
    · exact .inl empty
    · exact .inr (.inl long)
    · rw [carriersNamed_of_above above] at hl; cases hl
    · exact .inr (.inr (mt (nodup_of_carriersNamed hl).mp repeated))
    · rw [GroupMode.ofCode_of_unlisted unlisted] at hx; cases hx
  next => rfl

theorem writeGroup_of_accepted {mode count : Byte} {members : List Byte} (h : ¬GroupWriteRefused mode count members)
    (s : State) (m : MasterId) (tag : Half) (g : GroupId) :
    ∃ (l : List CarrierId) (x : GroupMode), l.map (fun c => c.val) = members.map BitVec.toNat ∧ x.code = mode ∧
      s.writeGroup m tag g mode count members =
        ({ s with pool := { s.pool with groups := put s.pool.groups g ⟨l, some x⟩ } } : State).answer m tag .done := by
  simp only [GroupWriteRefused, not_or, not_exists] at h
  obtain ⟨nonempty, short, within, distinct, listed⟩ := h
  obtain ⟨x, rfl⟩ := GroupMode.exists_code_eq listed
  obtain ⟨l, named⟩ := carriersNamed_of_within fun b hb => Nat.not_lt.mp fun above => within b ⟨hb, above⟩
  have nodup := (nodup_of_carriersNamed named).mpr (not_not.mp distinct)
  refine ⟨l, x, carriersNamed_eq_some_iff.mp named, rfl, ?_⟩
  simp [writeGroup, named, nonempty, short, nodup]

end State

/-- A well-formed group write with the right and a group's index reaches that group (R143, R158, R159). -/
theorem exec_configGroup {m : MasterId} {tag : Half} {g : GroupId} {index mode count : Byte} {members : List Byte}
    {s : State} (h : s.MayWrite m) (e : index.toNat = g.val)
    (w : WellFormed (.configGroup m tag index mode count members) = true) :
    Machine.exec (.configGroup m tag index mode count members) s =
      .next ((s.wake m).writeGroup m tag g mode count members) := by
  obtain ⟨serves, right⟩ := h
  have length : members.length = memberBytesNeeded count := by simpa [WellFormed] using w
  rw [State.exec_frame w rfl, State.onFrame_of_serves serves]
  change Host.Outcome.next ((s.wake m).configGroupFrame m tag index mode count members) = _
  rw [State.configGroupFrame, State.withEntry_of_right (by simpa using right) tag g e, ← length, List.take_length]

/-- Settles O11: the write reaches `writeGroup`, whose two outcomes are refusal and the group's replacement. -/
theorem groupWrite : Obligations.GroupWrite := by
  intro m tag g index mode count members s may names wellFormed
  simp only [exec_configGroup may names wellFormed]
  refine ⟨fun refused => ?_, fun accepted => ?_⟩
  · rw [State.writeGroup_of_refused refused, State.answer_eq_offer]
  · obtain ⟨l, x, spelled, coded, written⟩ := State.writeGroup_of_accepted accepted (s.wake m) m tag g
    exact ⟨l, x, spelled, coded, congrArg Host.Outcome.next written⟩

end Sys2Proof.Machine
end

section
/-! A class write (R26) whose gate byte names no gate. `Gate.ofCode` stands in the namespace of `Gate`, so the `none` of its
last case is the gate NONE, not the absence of a gate: the range check of R26 passes every gate byte, and a byte above 3
writes NONE where the rule says OUT_OF_RANGE. -/

namespace Sys2Proof.Machine

/-- A byte above 3 names none of the gates of R25, and reads as NONE. -/
theorem Gate.ofCode_of_unlisted {b : Byte} (h : 3 < b.toNat) : Gate.ofCode b = some .none := by
  unfold Gate.ofCode
  split
  case h_5 => rfl
  all_goals omega

/-- So the fields spell the entry that they would spell with gate NONE. -/
theorem ServiceClass.ofFields_of_unlisted_gate {gate : Byte} (h : 3 < gate.toNat) (valid level group maxUnits : Byte)
    (holdLimit waitLimit : Half) (thin preempt : Byte) :
    ofFields valid level group maxUnits holdLimit waitLimit gate thin preempt =
      ofFields valid level group maxUnits holdLimit waitLimit Gate.none.code thin preempt := by
  unfold ofFields
  rw [Gate.ofCode_of_unlisted h, Gate.ofCode_code]

/-- What the constraint check computes is the table of R26. -/
theorem ServiceClass.agrees_iff_fits (k : ServiceClass) : k.agrees = true ↔ k.Fits := by
  unfold agrees Fits
  split
  next e => simp [e, and_assoc]
  next e => simp [e]
  next e => simp [e]
  next e => simp [e]

/-- An entry that agrees with its level replaces the old one. -/
theorem State.writeClass_of_fits {k : ServiceClass} (h : k.Fits) (s : State) (m : MasterId) (tag : Half) (i : Fin 64) :
    s.writeClass m tag i (some k) =
      ({ s with intake := { s.intake with classes := put s.intake.classes i k } } : State).answer m tag .done := by
  simp [writeClass, k.agrees_iff_fits.mpr h]

/-- With the right, a class write reaches the entry of its service code (R143, R158, R159). -/
theorem exec_configClass {m : MasterId} {s : State} (h : s.MayWrite m) {index : Byte} {i : Fin 64}
    (e : index.toNat = i.val) (tag : Half) (valid level group maxUnits : Byte) (holdLimit waitLimit : Half)
    (gate thin preempt : Byte) :
    Machine.exec (.configClass m tag index valid level group maxUnits holdLimit waitLimit gate thin preempt) s =
      .next ((s.wake m).writeClass m tag i
        (ServiceClass.ofFields valid level group maxUnits holdLimit waitLimit gate thin preempt)) := by
  obtain ⟨serves, right⟩ := h
  rw [State.exec_frame rfl rfl, State.onFrame_of_serves serves]
  change Host.Outcome.next ((s.wake m).configClassFrame m tag index valid level group maxUnits holdLimit waitLimit gate
    thin preempt) = _
  rw [State.configClassFrame, State.withEntry_of_right (by simpa using right) tag i e]

/-- After a power-on the link of master 0, which has the configuration right, is opened. -/
def openedLink : State := State.reset.modPort 0 fun p => { p with link := .up }

theorem mayWrite_openedLink : openedLink.MayWrite 0 := ⟨⟨.inl rfl, rfl⟩, rfl⟩

/-- Under tag 7 the entry of service code 0: valid, P3, group 0, 1 unit, hold limit 100, no wait, no thin, no preempt; and a
gate byte of 4. -/
def unlistedGateWrite : Instr := .configClass 0 7 0 1 3 0 1 100 0 4 0 0

/-- The entry that the write leaves, with gate NONE. -/
def ungatedEntry : ServiceClass :=
  { valid := true, level := .p3, group := 0, maxUnits := 1, holdLimit := 100, waitLimit := 0, gate := .none,
    thin := false, preempt := false }

theorem ofFields_unlistedGateWrite : ServiceClass.ofFields 1 3 0 1 100 0 4 0 0 = some ungatedEntry := by
  rw [ServiceClass.ofFields_of_unlisted_gate (by decide)]
  rfl

theorem fits_ungatedEntry : ungatedEntry.Fits := by simp [ServiceClass.Fits, ungatedEntry]

/-- The write is accepted: the entry is replaced, and DONE is offered. -/
theorem exec_unlistedGateWrite :
    Machine.exec unlistedGateWrite openedLink =
      .next (({ openedLink.wake 0 with
        intake := { openedLink.intake with classes := put openedLink.intake.classes 0 ungatedEntry } } : State).answer 0 7
          .done) := by
  have names : (0 : Byte).toNat = (0 : Fin 64).val := rfl
  rw [unlistedGateWrite, exec_configClass mayWrite_openedLink names, ofFields_unlistedGateWrite,
    State.writeClass_of_fits fits_ungatedEntry]
  rfl

/-- Refutes O12: a gate byte of 4 is out of range, but the write is accepted. Refused OUT_OF_RANGE it would leave service
code 0 unmapped, as it is after a reset. -/
theorem not_classWrite : ¬Obligations.ClassWrite := by
  intro h
  have refused : Machine.exec unlistedGateWrite openedLink =
      .next ((openedLink.wake 0).offer 0 (plainAnswer 7 .outOfRange)) :=
    (h 0 7 0 1 3 0 1 100 0 4 0 0 openedLink mayWrite_openedLink).1 (by decide)
  have same := Host.Outcome.next.inj (exec_unlistedGateWrite.symm.trans refused)
  have mapped : ungatedEntry.valid = (look openedLink.intake.classes 0).valid := by
    simpa [State.answer_eq_offer, State.wake] using congrArg (fun t : State => (look t.intake.classes 0).valid) same
  exact absurd mapped (by decide)

end Sys2Proof.Machine
end

section
/-! A COMMIT from the owner of a grant (R52, R53): how the frame reaches `serveCommit`, and its outcome in each state of the
grant. -/

namespace Sys2Proof.Machine

namespace State

/-- The link's wake (R143) leaves the Grant Table alone. -/
@[simp] theorem grantAt_wake (s : State) (m : MasterId) (h : Handle) : (s.wake m).grantAt h = s.grantAt h := rfl

/-- The owner's frame passes the checks of R52. -/
theorem withOwnGrant_of_owner {s : State} {h : Handle} {g : Grant} (named : s.grantAt h = some g) (tag : Half)
    (serve : Grant → State) : s.withOwnGrant g.owner tag h serve = serve g := by
  simp [withOwnGrant, named]

/-- Another record in the entry of a grant's handle: the entry keeps the handle's generation (R44), and only the entries of
the Grant Table differ. -/
theorem setGrant_of_grantAt {s : State} {h : Handle} {g₀ : Grant} (named : s.grantAt h = some g₀) (g : Grant) :
    s.setGrant h g =
      { s with table := { s.table with entries := put s.table.entries h.index ⟨h.gen, some g⟩ } } := by
  obtain ⟨-, gen⟩ := entry_of_grantAt named
  rw [← gen]
  rfl

variable {g : Grant} {s : State} {m : MasterId} {tag : Half} {h : Handle}

theorem serveCommit_of_held {d : Time} (held : g.phase = .held d) :
    s.serveCommit m tag h g =
      (s.setGrant h { g with phase := .active }).offer m
        (.answer tag .committed (some h) (some g.carrier) (some .active) none) := by
  rw [serveCommit, held]

theorem serveCommit_of_active (active : g.phase = .active) :
    s.serveCommit m tag h g = s.offer m (.answer tag .wrongState (some h) none (some .active) none) := by
  rw [serveCommit, active, answerWrongState, active, GrantPhase.shown]

theorem serveCommit_of_recalled {cause : RecallCause} {d : Time} {k : Option CaseId}
    (recalled : g.phase = .recalled cause d k) :
    s.serveCommit m tag h g = s.offer m (.answer tag .wrongState (some h) none (some .recalled) none) := by
  rw [serveCommit, recalled, answerWrongState, recalled, GrantPhase.shown]

theorem serveCommit_of_revoked {cause : RevokeCause} (revoked : g.phase = .revoked cause) :
    s.serveCommit m tag h g =
      ((s.freeGrant h).offer m (.answer tag .tooLate (some h) none none none)).finish := by
  rw [serveCommit, revoked, tooLate, answerHandle]

end State

/-- A COMMIT from the owner of the grant that its handle names reaches that grant (R52, R143). -/
theorem exec_commit_of_owner {s : State} {handle : Half} {g : Grant} (serves : s.Serves g.owner)
    (named : s.grantAt (.ofBits handle) = some g) (tag : Half) :
    Machine.exec (.commit g.owner tag handle) s =
      .next ((s.wake g.owner).serveCommit g.owner tag (.ofBits handle) g) := by
  rw [State.exec_frame rfl rfl, State.onFrame_of_serves serves]
  change Host.Outcome.next ((s.wake g.owner).commitFrame g.owner tag handle) = _
  rw [State.commitFrame, State.withOwnGrant_of_owner (by rwa [State.grantAt_wake])]

/-- Settles O30: the frame reaches `serveCommit`, whose outcome is read off for each state of the grant. -/
theorem commitByState : Obligations.CommitByState := by
  rintro _ tag handle g s serves h w run named rfl
  have served : run = .next (w.serveCommit g.owner tag h g) := exec_commit_of_owner serves named tag
  have woken : w.grantAt h = some g := (State.grantAt_wake s g.owner h).trans named
  rw [served]
  refine ⟨fun d held => ?_, fun active => ?_, fun cause d k recalled => ?_, fun cause revoked => ?_⟩
  · rw [State.serveCommit_of_held held, State.setGrant_of_grantAt woken]
    rfl
  · rw [State.serveCommit_of_active active]
  · rw [State.serveCommit_of_recalled recalled]
  · rw [State.serveCommit_of_revoked revoked]

end Sys2Proof.Machine
end

section
/-! A CLEAR_STATS (R164): how the frame reaches `serveClearStats`, and what each kind of target does to the statistics. -/

namespace Sys2Proof

/-- Writing `x` at every index of `l` leaves `x` there, and the other records as they were. -/
theorem look_foldl_put {α : Type} {n : Nat} (x : α) (l : List (Fin n)) (v : Vector α n) (i : Fin n) :
    look (l.foldl (fun w j => put w j x) v) i = if i ∈ l then x else look v i := by
  induction l generalizing v with
  | nil => simp
  | cons j l ih =>
    rw [List.foldl_cons, ih, look_put]
    by_cases e : i = j <;> simp [e]

namespace Machine

theorem mem_allMasters : ∀ j : MasterId, j ∈ allMasters := by decide

namespace State

/-- Zeroing the counters of one master after another writes to their table alone. -/
theorem foldl_zeroStats (l : List MasterId) (s : State) :
    l.foldl zeroStats s =
      { s with responder :=
        { s.responder with stats := l.foldl (fun w j => put w j .zero) s.responder.stats } } := by
  induction l generalizing s with
  | nil => rfl
  | cons j l ih =>
    rw [List.foldl_cons, ih]
    rfl

/-- The masters are all there are, so no counter keeps its value. -/
theorem zeroStats_allMasters (s : State) :
    allMasters.foldl zeroStats s =
      { s with responder := { s.responder with stats := Vector.replicate 4 .zero } } := by
  have all : allMasters.foldl (fun w j => put w j Stats.zero) s.responder.stats = Vector.replicate 4 .zero :=
    look_ext fun i => by rw [look_foldl_put, if_pos (mem_allMasters i), look_replicate]
  rw [foldl_zeroStats, all]

variable {s : State} {m : MasterId}

theorem serveClearStats_of_master (right : (s.port m).configRight = true) (tag : Half) {j : MasterId} {target : Byte}
    (names : target.toNat = j.val) :
    s.serveClearStats m tag target = (s.zeroStats j).offer m (plainAnswer tag .done) := by
  rw [serveClearStats, withRight_of_right right, numberBelow_eq j names]
  rfl

theorem serveClearStats_of_all (right : (s.port m).configRight = true) (tag : Half) :
    s.serveClearStats m tag 0xFF =
      ({ s with responder := { s.responder with stats := Vector.replicate 4 .zero } } : State).offer m
        (plainAnswer tag .done) := by
  have names_none : numberBelow 4 (0xFF : Byte).toNat = none := numberBelow_none (by decide)
  have all : (0xFF : Byte).toNat = 0xFF := rfl
  rw [serveClearStats, withRight_of_right right, names_none]
  simp only [if_pos all, zeroStats_allMasters, answer_eq_offer]

theorem serveClearStats_of_unlisted (right : (s.port m).configRight = true) (tag : Half) {target : Byte}
    (above : 3 < target.toNat) (not_all : target.toNat ≠ 0xFF) :
    s.serveClearStats m tag target = s.offer m (plainAnswer tag .outOfRange) := by
  rw [serveClearStats, withRight_of_right right, numberBelow_none above]
  simp only [if_neg not_all, answer_eq_offer]

end State

/-- A CLEAR_STATS that finds no frame waiting is served after the link has been woken (R143). -/
theorem exec_clearStats_of_serves {s : State} {m : MasterId} (serves : s.Serves m) (tag : Half) (target : Byte) :
    Machine.exec (.clearStats m tag target) s = .next ((s.wake m).serveClearStats m tag target) := by
  rw [State.exec_frame rfl rfl, State.onFrame_of_serves serves]
  rfl

/-- Settles O15: the frame reaches `serveClearStats`, whose outcome is read off for each kind of target. -/
theorem clearStats : Obligations.ClearStats := by
  intro m tag s may
  obtain ⟨serves, right⟩ := may
  have right_woken : ((s.wake m).port m).configRight = true := (State.configRight_wake s m).trans right
  refine ⟨fun j target names => ?_, ?_, fun target above not_all => ?_⟩ <;> rw [exec_clearStats_of_serves serves]
  · rw [State.serveClearStats_of_master right_woken tag names]
    rfl
  · rw [State.serveClearStats_of_all right_woken]
    rfl
  · rw [State.serveClearStats_of_unlisted right_woken tag above not_all]

end Machine

end Sys2Proof
end

section
/-! What every command keeps of the bounds and agreements that the step invariants name: between two states `Keeps` says
so for each of them at once, so that each operation of a command is looked at once for all. -/

namespace Sys2Proof.Machine

/-! ### One master port -/

/-- The link takes frames (R143). -/
def Port.Listening (p : Port) : Prop := p.link = .up ∨ p.link = .stale

/-- R145: at most 16 frames wait, and nothing once the link has left UP and STALE. -/
def Port.BufferBounded (p : Port) : Prop :=
  (p.rxBuffer.filter fun c => !c.isFrameFault).length ≤ 16 ∧ (¬p.Listening → p.rxBuffer = [])

/-- R145, R155: what waits is the link's own. -/
def Port.BufferOwn (m : MasterId) (p : Port) : Prop := ∀ c ∈ p.rxBuffer, c.frameOn = some m ∨ c = .frameFault m

/-- R144. -/
def Port.FaultsBounded (p : Port) : Prop := p.frameFaults ≤ 8 ∧ (p.Listening → p.frameFaults < 8)

/-- Where port m kept its bounds before, it keeps them. -/
structure Port.Keeps (m : MasterId) (p q : Port) : Prop where
  queue : p.queue.length ≤ 64 → q.queue.length ≤ 64
  buffer : p.BufferBounded → q.BufferBounded
  own : p.BufferOwn m → q.BufferOwn m
  faults : p.FaultsBounded → q.FaultsBounded
  timers : p.TimersAgree → q.TimersAgree

namespace Port.Keeps

variable {m : MasterId} {p q r : Port}

theorem refl : Port.Keeps m p p := ⟨id, id, id, id, id⟩

theorem trans (h : Port.Keeps m p q) (k : Port.Keeps m q r) : Port.Keeps m p r :=
  ⟨k.queue ∘ h.queue, k.buffer ∘ h.buffer, k.own ∘ h.own, k.faults ∘ h.faults, k.timers ∘ h.timers⟩

/-- Ports that agree in what the bounds speak of, with no longer queue. -/
theorem of_eq (link : q.link = p.link) (silence : q.silence = p.silence) (orphan : q.orphan = p.orphan)
    (faults : q.frameFaults = p.frameFaults) (buffer : q.rxBuffer = p.rxBuffer)
    (queue : p.queue.length ≤ 64 → q.queue.length ≤ 64) : Port.Keeps m p q := by
  refine ⟨queue, ?_, ?_, ?_, ?_⟩
  · simp [BufferBounded, Listening, link, buffer]
  · simp [BufferOwn, buffer]
  · simp [FaultsBounded, Listening, link, faults]
  · simp [TimersAgree, link, silence, orphan]

/-- Equal skeletons, with no longer queue. -/
theorem of_skeleton (e : q.skeleton = p.skeleton) (queue : p.queue.length ≤ 64 → q.queue.length ≤ 64) :
    Port.Keeps m p q :=
  have link := congrArg Port.link e
  have silence := congrArg Port.silence e
  have orphan := congrArg Port.orphan e
  have faults := congrArg Port.frameFaults e
  have buffer := congrArg Port.rxBuffer e
  of_eq link silence orphan faults buffer queue

/-- R143: a frame wakes a link that takes frames. -/
theorem wake (l : p.Listening) (d : Time) :
    Port.Keeps m p { p with link := .up, orphan := none, silence := some d } :=
  ⟨id, fun b => ⟨b.1, fun n => absurd (.inl rfl) n⟩, id, fun b => ⟨b.1, fun _ => b.2 l⟩, fun _ => ⟨rfl, rfl⟩⟩

/-- R146: an opened link. -/
theorem opened (e : q.link = .up) (orphan : q.orphan = none) (silence : q.silence.isSome = true)
    (faults : q.frameFaults = 0) (buffer : q.rxBuffer = []) (queue : p.queue.length ≤ 64 → q.queue.length ≤ 64) :
    Port.Keeps m p q := by
  refine ⟨queue, fun _ => ?_, fun _ => ?_, fun _ => ?_, fun _ => ?_⟩
  · simp [BufferBounded, buffer]
  · simp [BufferOwn, buffer]
  · simp [FaultsBounded, faults]
  · simp [TimersAgree, e, orphan, silence]

/-- R149 to R151: a link that takes frames no more, with its buffer emptied and its timers as the new state has them. -/
theorem closed (l : ¬q.Listening) (buffer : q.rxBuffer = []) (faults : p.FaultsBounded → q.frameFaults ≤ 8)
    (timers : p.TimersAgree → q.TimersAgree) (queue : p.queue.length ≤ 64 → q.queue.length ≤ 64) :
    Port.Keeps m p q := by
  refine ⟨queue, fun _ => ?_, fun _ => ?_, fun b => ⟨faults b, fun k => absurd k l⟩, timers⟩
  · simp [BufferBounded, buffer]
  · simp [BufferOwn, buffer]

/-- R145: a frame of the link joins a buffer that holds fewer than 16. -/
theorem joined (l : p.Listening) (few : (p.rxBuffer.filter fun c => !c.isFrameFault).length < 16) {c : Instr}
    (own : c.frameOn = some m) : Port.Keeps m p { p with rxBuffer := p.rxBuffer ++ [c] } := by
  refine ⟨id, fun _ => ⟨?_, fun n => absurd l n⟩, fun b x hx => ?_, id, id⟩
  · have := List.length_filter_le (fun c => !c.isFrameFault) [c]
    simp only [List.filter_append, List.length_append, List.length_singleton] at *
    omega
  · rcases List.mem_append.mp hx with hx | hx
    · exact b x hx
    · exact .inl (by rwa [List.mem_singleton.mp hx])

/-- R155: a fault that waits is no frame. -/
theorem fault_joined (l : p.Listening) : Port.Keeps m p { p with rxBuffer := p.rxBuffer ++ [.frameFault m] } := by
  refine ⟨id, fun b => ⟨?_, fun n => absurd l n⟩, fun b x hx => ?_, id, id⟩
  · simpa [Instr.isFrameFault] using b.1
  · rcases List.mem_append.mp hx with hx | hx
    · exact b x hx
    · exact .inr (List.mem_singleton.mp hx)

/-- Some of what waits leaves the buffer. -/
theorem buffer_sublist {l : List Instr} (h : l.Sublist p.rxBuffer) : Port.Keeps m p { p with rxBuffer := l } := by
  refine ⟨id, fun b => ⟨?_, fun n => ?_⟩, fun b x hx => b x (h.subset hx), id, id⟩
  · exact le_trans (h.filter _).length_le b.1
  · have e := b.2 n
    rw [e, List.sublist_nil] at h
    exact h

end Port.Keeps

/-! ### The radio port -/

/-- R157. -/
def RadioPort.QueueBounded (r : RadioPort) : Prop :=
  r.queue.length ≤ 8 ∧ (r.queue.filter fun f => !f.isOccupancy).length ≤ 1

/-- R156. -/
def RadioPort.BufferBounded (r : RadioPort) : Prop := r.rxBuffer.length ≤ 16 ∧ (r.link = .down → r.rxBuffer = [])

/-- Where the radio port kept its bounds before, it keeps them. -/
structure RadioPort.Keeps (r q : RadioPort) : Prop where
  queue : r.QueueBounded → q.QueueBounded
  buffer : r.BufferBounded → q.BufferBounded
  own : (∀ c ∈ r.rxBuffer, c.isRadioFrame = true) → ∀ c ∈ q.rxBuffer, c.isRadioFrame = true

namespace RadioPort.Keeps

variable {r q u : RadioPort}

theorem refl : RadioPort.Keeps r r := ⟨id, id, id⟩

theorem trans (h : RadioPort.Keeps r q) (k : RadioPort.Keeps q u) : RadioPort.Keeps r u :=
  ⟨k.queue ∘ h.queue, k.buffer ∘ h.buffer, k.own ∘ h.own⟩

/-- The radio link is not DOWN, with queue and buffer as they were. -/
theorem linked (l : q.link ≠ .down) (queue : q.queue = r.queue) (buffer : q.rxBuffer = r.rxBuffer) :
    RadioPort.Keeps r q := by
  refine ⟨?_, fun b => ⟨by rw [buffer]; exact b.1, fun e => absurd e l⟩, ?_⟩
  · simp [QueueBounded, queue]
  · simp [buffer]

/-- R156: a frame of the radio head joins a buffer that holds fewer than 16. -/
theorem joined (l : r.link ≠ .down) (few : r.rxBuffer.length < 16) {c : Instr} (own : c.isRadioFrame = true) :
    RadioPort.Keeps r { r with rxBuffer := r.rxBuffer ++ [c] } := by
  refine ⟨id, fun _ => ⟨?_, fun e => absurd e l⟩, fun b x hx => ?_⟩
  · simp only [List.length_append, List.length_singleton]; omega
  · rcases List.mem_append.mp hx with hx | hx
    · exact b x hx
    · rwa [List.mem_singleton.mp hx]

theorem buffer_tail : RadioPort.Keeps r { r with rxBuffer := r.rxBuffer.tail } := by
  refine ⟨id, fun b => ⟨?_, fun e => ?_⟩, fun b x hx => b x (List.mem_of_mem_tail hx)⟩
  · have := b.1
    simp only [List.length_tail]; omega
  · change r.rxBuffer.tail = []
    rw [b.2 e]
    rfl

end RadioPort.Keeps

/-! ### The state -/

/-- Where the part kept its bounds and agreements before, it keeps them. -/
structure Keeps (s t : State) : Prop where
  ports : ∀ m, (s.port m).Keeps m (t.port m)
  radio : s.radio.Keeps t.radio
  clock : s.EpochTimersAgree → t.EpochTimersAgree
  store : s.StoreBounded → t.StoreBounded
  tombstones : s.TombstonesBounded → t.TombstonesBounded
  freeQueue : s.FreeQueueAgrees → t.FreeQueueAgrees
  age : s.recallUnit.AgeAgrees → t.recallUnit.AgeAgrees

namespace Keeps

variable {s t u : State}

theorem refl : Keeps s s := ⟨fun _ => .refl, .refl, id, id, id, id, id⟩

theorem trans (h : Keeps s t) (k : Keeps t u) : Keeps s u :=
  ⟨fun m => (h.ports m).trans (k.ports m), h.radio.trans k.radio, k.clock ∘ h.clock, k.store ∘ h.store,
    k.tombstones ∘ h.tombstones, k.freeQueue ∘ h.freeQueue, k.age ∘ h.age⟩

theorem foldl {α : Type} {f : State → α → State} (h : ∀ s x, Keeps s (f s x)) :
    ∀ (l : List α) (s : State), Keeps s (l.foldl f s)
  | [], _ => refl
  | x :: l, s => (h s x).trans (foldl h l (f s x))

/-- The engine's work keeps them all. -/
theorem of_works (h : Works s t) : Keeps s t := by
  have epoch := congrArg State.epoch h.skeleton
  have state := congrArg EpochUnit.state epoch
  have interval := congrArg EpochUnit.intervalTimer epoch
  have loss := congrArg EpochUnit.lossTimer epoch
  refine ⟨fun m => .of_skeleton (port_of_skeleton h.skeleton m) (h.queue_le m), ?_, ?_, h.storeBounded,
    h.tombstonesBounded, h.freeQueueAgrees, h.ageAgrees⟩
  · rw [radio_of_skeleton h.skeleton]
    exact .refl
  · change t.epoch.state = s.epoch.state at state
    change t.epoch.intervalTimer = s.epoch.intervalTimer at interval
    change t.epoch.lossTimer = s.epoch.lossTimer at loss
    simp [State.EpochTimersAgree, state, interval, loss]

/-- What of the state no bound speaks of may change. -/
theorem of_eq (ports : t.ports = s.ports) (radio : t.radio = s.radio) (state : t.epoch.state = s.epoch.state)
    (interval : t.epoch.intervalTimer = s.epoch.intervalTimer) (loss : t.epoch.lossTimer = s.epoch.lossTimer)
    (waiting : t.waiting = s.waiting) (table : t.table = s.table) (recallUnit : t.recallUnit = s.recallUnit) :
    Keeps s t := by
  refine ⟨fun m => ?_, by rw [radio]; exact .refl, ?_, ?_, ?_, ?_, by rw [recallUnit]; exact id⟩
  · rw [show t.port m = s.port m by simp [State.port, ports]]
    exact .refl
  · simp [State.EpochTimersAgree, state, interval, loss]
  · simp [State.StoreBounded, State.storeCount, State.priorityCount, waiting]
  · simp [State.TombstonesBounded, table]
  · simp [State.FreeQueueAgrees, table]

/-- A change of one port that keeps the port's bounds. -/
theorem modPort (s : State) (m : MasterId) (f : Port → Port) (h : (s.port m).Keeps m (f (s.port m))) :
    Keeps s (s.modPort m f) := by
  refine ⟨fun j => ?_, .refl, id, id, id, id, id⟩
  by_cases e : j = m
  · subst e
    rw [State.port_modPort_same]
    exact h
  · rw [State.port_modPort_ne _ e]
    exact .refl

/-- A change of one port, work, and another change of the port, that together keep the port's bounds. -/
theorem modPort_works_modPort {m : MasterId} {f g : Port → Port} (w : Works (s.modPort m f) u)
    (h : ∀ p : Port, p.skeleton = (f (s.port m)).skeleton → ((f (s.port m)).queue.length ≤ 64 → p.queue.length ≤ 64) →
      (s.port m).Keeps m (g p)) : Keeps s (u.modPort m g) := by
  have k := of_works w
  refine ⟨fun j => ?_, k.radio, k.clock, k.store, k.tombstones, k.freeQueue, k.age⟩
  have port := port_of_skeleton w.skeleton j
  have queue := w.queue_le j
  by_cases e : j = m
  · subst e
    rw [State.port_modPort_same] at port queue ⊢
    exact h _ port queue
  · rw [State.port_modPort_ne _ e] at port queue ⊢
    exact .of_skeleton port queue

/-- A change of the radio port that keeps its bounds. -/
theorem modRadio (s : State) (f : RadioPort → RadioPort) (h : s.radio.Keeps (f s.radio)) : Keeps s (s.modRadio f) :=
  ⟨fun _ => .refl, h, id, id, id, id, id⟩

/-- A change of the epochs that leaves the timers of their state running. -/
theorem modEpoch (s : State) (f : EpochUnit → EpochUnit)
    (h : s.EpochTimersAgree → (s.modEpoch f).EpochTimersAgree) : Keeps s (s.modEpoch f) :=
  ⟨fun _ => .refl, .refl, h, id, id, id, id⟩

end Keeps

/-! ### The settings and the overload level -/

/-- Of the settings nothing is lost in the skeleton. -/
theorem State.settings_skeleton (s : State) : s.skeleton.settings = s.settings := by
  simp only [settings, skeleton, Vector.toList_map, List.map_map]
  rfl

/-- Equal skeletons have the same settings. -/
theorem settings_of_skeleton {s t : State} (h : t.skeleton = s.skeleton) : t.settings = s.settings := by
  rw [← s.settings_skeleton, ← t.settings_skeleton, h]

/-- Of a port the settings hold the right alone. -/
theorem State.settings_modPort (s : State) (m : MasterId) (f : Port → Port)
    (right : (f (s.port m)).configRight = (s.port m).configRight) : (s.modPort m f).settings = s.settings := by
  have rights : (s.modPort m f).ports.map Port.configRight = s.ports.map Port.configRight := by
    rw [State.ports_modPort, map_put_of_eq]
    exact right
  have list := congrArg Vector.toList rights
  simp only [Vector.toList_map] at list
  simp only [State.settings, list]
  rfl

/-- The part keeps its bounds and agreements, its settings and its overload level: so does every operation but a
configuration write, a boundary, a reset and a clear. -/
structure Steady (s t : State) : Prop where
  keeps : Keeps s t
  settings : t.settings = s.settings
  level : t.epoch.level = s.epoch.level

namespace Steady

variable {s t u : State}

theorem refl : Steady s s := ⟨.refl, rfl, rfl⟩

theorem trans (h : Steady s t) (k : Steady t u) : Steady s u :=
  ⟨h.keeps.trans k.keeps, k.settings.trans h.settings, k.level.trans h.level⟩

theorem foldl {α : Type} {f : State → α → State} (h : ∀ s x, Steady s (f s x)) :
    ∀ (l : List α) (s : State), Steady s (l.foldl f s)
  | [], _ => refl
  | x :: l, s => (h s x).trans (foldl h l (f s x))

theorem of_works (h : Works s t) : Steady s t :=
  ⟨.of_works h, settings_of_skeleton h.skeleton, level_of_skeleton h.skeleton⟩

theorem offer (s : State) (m : MasterId) (f : OutFrame) : Steady s (s.offer m f) := of_works (.offer .refl m f)

/-- A change of one port that keeps the port's bounds and its right. -/
theorem modPort (s : State) (m : MasterId) (f : Port → Port) (h : (s.port m).Keeps m (f (s.port m)))
    (right : (f (s.port m)).configRight = (s.port m).configRight) : Steady s (s.modPort m f) :=
  ⟨.modPort s m f h, State.settings_modPort s m f right, rfl⟩

/-- A change of one port, work, and another change of the port, that together keep the port's bounds and its right. -/
theorem modPort_works_modPort {m : MasterId} {f g : Port → Port} (w : Works (s.modPort m f) u)
    (h : ∀ p : Port, p.skeleton = (f (s.port m)).skeleton → ((f (s.port m)).queue.length ≤ 64 → p.queue.length ≤ 64) →
      (s.port m).Keeps m (g p)) (right : ∀ p, (f p).configRight = p.configRight)
    (right' : ∀ p, (g p).configRight = p.configRight) : Steady s (u.modPort m g) := by
  have level : u.epoch.level = s.epoch.level := (level_of_skeleton w.skeleton).trans rfl
  refine ⟨.modPort_works_modPort w h, ?_, level⟩
  rw [State.settings_modPort u m g (right' _), settings_of_skeleton w.skeleton, State.settings_modPort s m f (right _)]

/-- A change of the radio port that keeps its bounds and its silence period. -/
theorem modRadio (s : State) (f : RadioPort → RadioPort) (h : s.radio.Keeps (f s.radio))
    (period : (f s.radio).silencePeriod = s.radio.silencePeriod) : Steady s (s.modRadio f) :=
  ⟨.modRadio s f h, by simp only [State.settings, State.radio_modRadio, period]; rfl, rfl⟩

/-- A change of the epochs that leaves the timers of their state running, and their settings and the level. -/
theorem modEpoch (s : State) (f : EpochUnit → EpochUnit) (h : s.EpochTimersAgree → (s.modEpoch f).EpochTimersAgree)
    (thresholds : (f s.epoch).thresholds = s.epoch.thresholds)
    (persistence : (f s.epoch).fallPersistence = s.epoch.fallPersistence)
    (interval : (f s.epoch).epochInterval = s.epoch.epochInterval) (level : (f s.epoch).level = s.epoch.level) :
    Steady s (s.modEpoch f) :=
  ⟨.modEpoch s f h, by
    simp only [State.settings, State.epoch_modEpoch, thresholds, persistence, interval]; rfl, level⟩

end Steady

end Sys2Proof.Machine
end

section
/-! What each operation of a command keeps: the operations that are `Steady`, and of the rest (configuration writes,
boundaries, resets and clears) that they keep the bounds and agreements. -/

namespace Sys2Proof.Machine

/-- R144: a fault on an open link is counted and sets its flag, and the eighth suspends the link. -/
theorem State.countFrameFault_of_listens {s : State} {m : MasterId} (l : s.Listens m) :
    s.countFrameFault m =
      let t := (s.modPort m fun p => { p with frameFaults := p.frameFaults + 1 }).setFault m .frameFault
      if 8 ≤ (s.port m).frameFaults + 1 then t.suspend m .frameFaults else t := by
  have w := works_setFault (s.modPort m fun p => { p with frameFaults := p.frameFaults + 1 }) m .frameFault
  have e := congrArg Port.frameFaults (port_of_skeleton w.skeleton m)
  rw [port_modPort_same] at e
  have counted : (((s.modPort m fun p => { p with frameFaults := p.frameFaults + 1 }).setFault m .frameFault).port
      m).frameFaults = (s.port m).frameFaults + 1 := e
  rw [← counted]
  rcases l with l | l <;> simp only [countFrameFault, l] <;> rfl

namespace Steady

variable {s : State} {m : MasterId}

/-! ### Frames on their way -/

theorem wake (l : s.Listens m) : Steady s (s.wake m) := modPort s m _ (.wake l _) rfl

theorem suspend (s : State) (m : MasterId) (r : SuspendReason) : Steady s (s.suspend m r) := by
  refine (modPort s m _ ?_ rfl).trans (of_works (State.works_suspend s m r))
  exact .closed (by simp [Port.Listening]) rfl (fun b => b.1) (fun _ => ⟨rfl, rfl⟩) fun _ => by simp

/-- R144: the fault that reaches the limit closes the link in the same service. -/
theorem countFrameFault (s : State) (m : MasterId) : Steady s (s.countFrameFault m) := by
  by_cases l : s.Listens m
  case neg => rw [State.countFrameFault_of_not l]; exact refl
  rw [State.countFrameFault_of_listens l]
  have w := State.works_setFault (s.modPort m fun p => { p with frameFaults := p.frameFaults + 1 }) m .frameFault
  split_ifs with limit
  · refine trans ?_ (of_works (State.works_suspend _ m .frameFaults))
    refine modPort_works_modPort w (fun p e queue => ?_) (fun _ => rfl) fun _ => rfl
    have faults := congrArg Port.frameFaults e
    refine .closed (by simp [Port.Listening]) rfl (fun b => ?_) (fun _ => ⟨rfl, rfl⟩) fun _ => by simp
    change p.frameFaults = (s.port m).frameFaults + 1 at faults
    have := b.2 l
    simp only
    omega
  · refine (modPort s m _ ?_ rfl).trans (of_works w)
    exact ⟨id, id, id, fun b => ⟨by simp only; omega, fun _ => by simp only; omega⟩, id⟩

theorem joinBuffer_fault (l : s.Listens m) : Steady s (s.joinBuffer m (.frameFault m)) :=
  modPort s m _ (.fault_joined l) rfl

theorem noteFault (s : State) (m : MasterId) : Steady s (s.noteFault m) := by
  by_cases l : s.Listens m
  · rw [State.noteFault_of_listens l]
    split_ifs
    · exact countFrameFault s m
    · exact joinBuffer_fault l
  · rw [State.noteFault_of_not l]
    exact refl

theorem hold {c : Instr} (own : c.frameOn = some m) (s : State) : Steady s (s.hold m c) := by
  rcases s.hold_cases m c with e | ⟨-, -, e⟩ | ⟨l, few, e⟩ <;> rw [e]
  · exact refl
  · exact noteFault s m
  · refine (wake l).trans (modPort _ m _ (.joined (.inl (by simp [State.wake])) ?_ own) rfl)
    simpa [State.wake, State.framesWaiting] using few

theorem serveFaults (s : State) (m : MasterId) : Steady s (s.serveFaults m) :=
  foldl (fun t _ => countFrameFault t m) _ _

/-! ### Link events -/

theorem openLink (s : State) (m : MasterId) (mode : NoticeMode) (choice : KeepChoice) :
    Steady s (s.openLink m mode choice) := by
  simp only [State.openLink]
  generalize fateAtOpen choice = fate
  generalize State.openingCause (s.port m).link = cause
  have claimed := (State.works_dropPending (s.modPort m fun p =>
    { p with lastCause := some cause, rxBuffer := [], queue := [], overrun := false }) m).trans
      (State.works_linkClaim _ m fate)
  generalize State.linkClaim _ m fate = t at claimed ⊢
  have woken : (t.modPort m fun p => { p with noticeMode := mode, frameFaults := 0 }).wake m =
      t.modPort m fun p => { p with
        noticeMode := mode, frameFaults := 0, link := .up, orphan := none,
        silence := some (t.now + (t.master m).silencePeriod) } := by
    simp [State.wake, State.modPort, State.now, State.master]
  have opened : Steady s ((t.modPort m fun p => { p with noticeMode := mode, frameFaults := 0 }).wake m) := by
    rw [woken]
    refine modPort_works_modPort claimed (fun p e queue => ?_) (fun _ => rfl) fun _ => rfl
    have buffer := congrArg Port.rxBuffer e
    exact .opened rfl rfl rfl rfl buffer fun _ => queue (by simp)
  generalize State.wake _ m = u at opened ⊢
  have told := opened.trans (offer u m (u.hello m))
  generalize u.offer m (u.hello m) = u at told ⊢
  split_ifs
  · exact (told.trans (modPort u m _ (.of_eq rfl rfl rfl rfl rfl id) rfl)).trans (of_works (State.works_finish _))
  · exact told.trans (of_works (State.works_finish _))

theorem takeLinkOpen (s : State) (m : MasterId) (notice keep : Byte) : Steady s (s.takeLinkOpen m notice keep) := by
  unfold State.takeLinkOpen
  split_ifs
  · exact refl
  · split
    · exact (serveFaults s m).trans (openLink _ m _ _)
    · exact refl

theorem expireSilence (s : State) (m : MasterId) : Steady s (s.expireSilence m) := by
  unfold State.expireSilence
  split
  · next up running =>
    split_ifs
    · refine modPort s m _ ⟨id, fun b => ⟨b.1, fun n => absurd (.inr rfl) n⟩, id, fun b => ⟨b.1, fun _ => b.2 (.inl up)⟩,
        fun _ => ⟨rfl, rfl⟩⟩ rfl
    · exact refl
  · exact refl

theorem orphanFirst (stale : (s.port m).link = .stale) : Steady s (s.orphanFirst m) := by
  simp only [State.orphanFirst]
  have claimed := (State.works_dropPending (s.modPort m fun p => { p with link := .orphaned, rxBuffer := [] }) m).trans
    (State.works_linkClaim _ m fateAtStage1)
  refine trans ?_ (of_works (State.works_finish _))
  refine modPort_works_modPort claimed (fun p e queue => ?_) (fun _ => rfl) fun _ => rfl
  have link := congrArg Port.link e
  have buffer := congrArg Port.rxBuffer e
  have faults := congrArg Port.frameFaults e
  have silence := congrArg Port.silence e
  change p.link = .orphaned at link
  change p.frameFaults = (s.port m).frameFaults at faults
  change p.silence = (s.port m).silence at silence
  refine .closed (by simp [Port.Listening, link]) buffer (fun b => faults.trans_le b.1) (fun b => ?_) queue
  simp only [Port.TimersAgree, stale] at b
  simp [Port.TimersAgree, link, silence, b.1]

theorem orphanSecond (orphaned : (s.port m).link = .orphaned) : Steady s (s.orphanSecond m) := by
  have claimed := of_works (State.works_linkClaim s m fateAtStage2)
  have link := (State.link_rxBuffer_of_works (State.works_linkClaim s m fateAtStage2) m).1.trans orphaned
  unfold State.orphanSecond
  generalize s.linkClaim m fateAtStage2 = u at claimed link ⊢
  refine trans (claimed.trans ?_) (of_works (State.works_finish _))
  refine modPort _ m _ ⟨id, id, id, id, fun b => ?_⟩ rfl
  simp only [Port.TimersAgree, link] at b ⊢
  exact ⟨b.1, .inl trivial⟩

theorem expireOrphan1 (s : State) (m : MasterId) : Steady s (s.expireOrphan1 m) := by
  unfold State.expireOrphan1
  split
  · next stale _ =>
    split_ifs
    · exact orphanFirst stale
    · exact refl
  · exact refl

theorem expireOrphan2 (s : State) (m : MasterId) : Steady s (s.expireOrphan2 m) := by
  unfold State.expireOrphan2
  split
  · next orphaned _ =>
    split_ifs
    · exact orphanSecond orphaned
    · exact refl
  · exact refl

theorem beginSend (s : State) (m : MasterId) : Steady s (s.beginSend m) := by
  unfold State.beginSend
  split
  · next f rest idle queue =>
    refine modPort s m _ (.of_eq rfl rfl rfl rfl rfl fun b => ?_) rfl
    simp only [queue, List.length_cons] at b
    simp only
    omega
  · exact refl

/-! ### The radio link -/

theorem wakeRadio (s : State) : Steady s s.wakeRadio :=
  modRadio s _ (.linked (by simp) rfl rfl) rfl

theorem holdRadio {c : Instr} (own : c.isRadioFrame = true) (s : State) : Steady s (s.holdRadio c) := by
  rcases s.holdRadio_cases c with e | ⟨-, few, e⟩ <;> rw [e]
  · exact refl
  · exact (wakeRadio s).trans (modRadio s.wakeRadio _ (RadioPort.Keeps.joined (r := s.wakeRadio.radio)
      (by simp [State.wakeRadio]) few own) rfl)

theorem holdRadioOpen (l : s.radio.link ≠ .down) (tag : Half) : Steady s (s.holdRadioOpen tag) := by
  unfold State.holdRadioOpen
  split_ifs with full
  · exact refl
  · have few : ¬16 ≤ s.radio.rxBuffer.length := fun h => full (decide_eq_true h)
    exact modRadio s _ (.joined l (by omega) rfl) rfl

theorem openRadio (s : State) (tag : Half) : Steady s (s.openRadio tag) := by
  refine (?_ : Steady s (s.modRadio fun r => { r with
    queue := [.radioHello tag s.responder.resetCause s.epoch.number], link := .up,
    silence := some (s.now + s.radio.silencePeriod) }))
  refine modRadio s _ ⟨fun _ => ⟨by simp, by simp [RadioFrame.isOccupancy]⟩, fun b => ⟨b.1, fun e => nomatch e⟩, id⟩ rfl

theorem takeRadioOpen (s : State) (tag : Half) : Steady s (s.takeRadioOpen tag) := by
  unfold State.takeRadioOpen
  split_ifs
  · exact refl
  · exact openRadio s tag

theorem offerAll (s : State) (f : OutFrame) : Steady s (s.offerAll f) := of_works (State.works_offerAll s f)

theorem expireRadioSilence (s : State) : Steady s s.expireRadioSilence := by
  unfold State.expireRadioSilence
  split
  · split_ifs
    · exact (modRadio s _ (.linked (by simp) rfl rfl) rfl).trans (offerAll _ _)
    · exact refl
  · exact refl

theorem reported (s : State) (c : CarrierId) (v : Option Nat) : Steady s (s.modCarrier c fun k => { k with reported := v }) := by
  refine ⟨.of_eq rfl rfl rfl rfl rfl rfl rfl rfl, ?_, rfl⟩
  have carriers : (s.modCarrier c fun k => { k with reported := v }).pool.carriers.map
      (fun k => (k.state, k.nominal, k.guard)) = s.pool.carriers.map fun k => (k.state, k.nominal, k.guard) := by
    rw [State.pool_modCarrier, map_put_of_eq]
    rfl
  have list := congrArg Vector.toList carriers
  simp only [Vector.toList_map] at list
  simp only [State.settings, list]
  rfl

theorem report (s : State) (carrier : Byte) (available : Half) : Steady s (s.report carrier available) := by
  unfold State.report
  split
  · exact refl
  · next c _ =>
    exact ((reported s c _).trans (of_works (State.works_serveReport s c _))).trans (of_works (State.works_finish _))

/-! ### Requests, queries and flags -/

theorem stepThinning (s : State) (m : MasterId) (c : Fin 64) : Steady s (s.stepThinning m c) :=
  ⟨.of_eq rfl rfl rfl rfl rfl rfl rfl rfl, rfl, rfl⟩

theorem refuse (s : State) (m : MasterId) (tag : Half) (o : AnswerCode) : Steady s (s.refuse m tag o) :=
  of_works (State.works_refuse s m tag o)

theorem handOn (s : State) (m : MasterId) (tag : Half) (c : Fin 64) (k : ServiceClass) (u : Nat) (mode : AdmitMode) :
    Steady s (s.handOn m tag c k u mode) := of_works (State.works_handOn s m tag c k u mode)

theorem intakePending (s : State) (m : MasterId) (tag : Half) (c : Fin 64) (k : ServiceClass) (u : Nat)
    (mode : AdmitMode) : Steady s (s.intakePending m tag c k u mode) := by
  unfold State.intakePending
  split_ifs
  · exact refuse _ _ _ _
  · exact refuse _ _ _ _
  · exact refuse _ _ _ _
  · exact (stepThinning s m c).trans (handOn _ _ _ _ _ _ _)
  · exact (stepThinning s m c).trans (refuse _ _ _ _)
  · exact handOn _ _ _ _ _ _ _

theorem serveAdmit (s : State) (m : MasterId) (tag : Half) (code units mode : Byte) :
    Steady s (s.serveAdmit m tag code units mode) := by
  unfold State.serveAdmit
  split
  · exact refuse _ _ _ _
  · next k _ =>
    have arrived : Steady s (s.reportArrival k.level) := of_works (.counters .refl _)
    simp only
    split_ifs
    · exact arrived.trans (refuse _ _ _ _)
    · split
      · exact arrived.trans (refuse _ _ _ _)
      · exact arrived.trans (intakePending _ _ _ _ _ _ _)

theorem serveClearFault (s : State) (m : MasterId) (tag : Half) (named : FaultFlags) :
    Steady s (s.serveClearFault m tag named) :=
  (modPort s m _ (.of_eq rfl rfl rfl rfl rfl id) rfl).trans (offer _ _ _)

end Steady

/-! ### Queries are answers -/

namespace State

theorem works_offerParts (m : MasterId) (tag : Half) (kind : Byte) (index : Half) :
    ∀ (l : List (List ReplyField)) (i : Nat) (s : State), Works s (offerParts m tag kind index i l s)
  | [], _, _ => .refl
  | [_], _, _ => .offer .refl _ _
  | _ :: q :: rest, i, s => by
    rw [offerParts]
    exact (Works.offer .refl _ _).trans (works_offerParts m tag kind index (q :: rest) (i + 1) _)

theorem works_reply (s : State) (m : MasterId) (tag : Half) (kind : Byte) (index : Half) (fields : List ReplyField) :
    Works s (s.reply m tag kind index fields) := works_offerParts _ _ _ _ _ _ _

theorem works_queryEntry (s : State) (m : MasterId) (tag : Half) (kind : Byte) (n : Nat) (index : Half)
    (fields : Fin n → List ReplyField) : Works s (s.queryEntry m tag kind n index fields) := by
  unfold queryEntry
  split
  · exact works_reply _ _ _ _ _ _
  · exact .offer .refl _ _

theorem works_queryMaster (s : State) (m : MasterId) (tag : Half) (kind : Byte) (index : Half) :
    Works s (s.queryMaster m tag kind index) := by
  unfold queryMaster
  split
  · exact .offer .refl _ _
  · split_ifs
    · exact works_reply _ _ _ _ _ _
    · exact .offer .refl _ _

theorem works_queryGrant (s : State) (m : MasterId) (tag : Half) (kind : Byte) (index : Half) :
    Works s (s.queryGrant m tag kind index) := by
  unfold queryGrant
  split
  · exact .offer .refl _ _
  · split_ifs
    · exact works_reply _ _ _ _ _ _
    · exact .offer .refl _ _

theorem works_serveQuery (s : State) (m : MasterId) (tag : Half) (kind : Byte) (index : Half) :
    Works s (s.serveQuery m tag kind index) := by
  unfold serveQuery
  split
  · exact works_queryEntry _ _ _ _ _ _ _
  · exact works_queryEntry _ _ _ _ _ _ _
  · exact works_queryEntry _ _ _ _ _ _ _
  · exact works_reply _ _ _ _ _ _
  · exact works_queryEntry _ _ _ _ _ _ _
  · exact works_reply _ _ _ _ _ _
  · exact works_queryMaster _ _ _ _ _
  · exact works_queryGrant _ _ _ _ _
  · exact works_reply _ _ _ _ _ _
  · exact .offer .refl _ _

theorem works_commitFrame (s : State) (m : MasterId) (tag handle : Half) : Works s (s.commitFrame m tag handle) :=
  works_withOwnGrant _ _ _ _ _ fun _ e => works_serveCommit _ _ _ _ _ e

theorem works_releaseFrame (s : State) (m : MasterId) (tag handle : Half) : Works s (s.releaseFrame m tag handle) :=
  works_withOwnGrant _ _ _ _ _ fun _ _ => works_serveRelease _ _ _ _ _

end State

/-! ### Boundaries and timers of the epochs -/

namespace State

/-- A boundary after its first stage: the level and the count, notices, the radio frame, the record. -/
theorem keeps_setLevel (s : State) (l : Load) (n : Nat) :
    Keeps s (s.setLevel l n) ∧ (s.setLevel l n).settings = s.settings ∧ (s.setLevel l n).epoch.level = l := by
  have base : Keeps s (s.modEpoch fun e => { e with level := l, fallCount := n }) := .modEpoch s _ id
  have told := Steady.offerAll (s.modEpoch fun e => { e with level := l, fallCount := n }) (.level s.epoch.level l)
  simp only [setLevel]
  split_ifs
  · exact ⟨base, rfl, rfl⟩
  · exact ⟨(base.trans told.keeps).trans (.of_eq rfl rfl rfl rfl rfl rfl rfl rfl), told.settings, told.level⟩
  · exact ⟨base.trans told.keeps, told.settings, told.level⟩

/-- Replacing the oldest OCCUPANCY keeps a full queue at its length and the other frames as they are. -/
theorem length_dropOldestOccupancy : ∀ l : List RadioFrame,
    (l.filter fun f => !f.isOccupancy).length < l.length → (dropOldestOccupancy l).length + 1 = l.length
  | [], h => absurd h (Nat.lt_irrefl _)
  | f :: rest, h => by
    rw [dropOldestOccupancy]
    split_ifs with o
    · rfl
    · have := length_dropOldestOccupancy rest (by simpa [o] using h)
      simp only [List.length_cons]
      omega

theorem filter_dropOldestOccupancy : ∀ l : List RadioFrame,
    (dropOldestOccupancy l).filter (fun f => !f.isOccupancy) = l.filter fun f => !f.isOccupancy
  | [] => rfl
  | f :: rest => by
    rw [dropOldestOccupancy]
    split_ifs with o
    · simp [o]
    · simp [o, filter_dropOldestOccupancy rest]

/-- R157: an OCCUPANCY offered keeps the radio queue's bounds. -/
theorem steady_offerOccupancy (s : State) (n : Fin 64) (values : List (Nat × Nat)) :
    Steady s (s.offerOccupancy (.occupancy n values)) := by
  have offered : Steady s (s.modRadio fun r =>
      if r.queue.length < Config.radioQueueSize then { r with queue := r.queue ++ [.occupancy n values] }
      else { r with queue := dropOldestOccupancy r.queue ++ [.occupancy n values] }) := by
    refine .modRadio s _ ⟨fun ⟨few, hello⟩ => ?_, fun b => ?_, ?_⟩ ?_
    · have none : [RadioFrame.occupancy n values].filter (fun f => !f.isOccupancy) = [] := rfl
      split_ifs with room
      · refine ⟨?_, by simpa only [List.filter_append, none, List.append_nil] using hello⟩
        simp only [Config.radioQueueSize, List.length_append, List.length_singleton] at *
        omega
      · have shorter := length_dropOldestOccupancy s.radio.queue (by simp only [Config.radioQueueSize] at room; omega)
        refine ⟨?_, by
          simpa only [List.filter_append, none, List.append_nil, filter_dropOldestOccupancy] using hello⟩
        simp only [List.length_append, List.length_singleton]
        omega
    · split_ifs
      · exact b
      · exact b
    · split_ifs
      · exact id
      · exact id
    · split_ifs
      · rfl
      · rfl
  unfold offerOccupancy
  split
  · exact .refl
  · exact offered
  · exact offered

theorem steady_closeEpoch (s : State) (v : Evaluation) (l : Load) : Steady s (s.closeEpoch v l) := by
  simp only [closeEpoch]
  refine (Steady.modEpoch s _ id rfl rfl rfl rfl).trans (Steady.foldl (fun u m => ?_) _ _)
  exact .modPort u m _ ⟨id, id, id, fun _ => ⟨by simp, fun _ => by simp⟩, id⟩ rfl

/-- A boundary keeps the bounds and the settings, and leaves the level that the evaluation gives. -/
theorem keeps_boundary (s : State) :
    Keeps s s.boundary ∧ s.boundary.settings = s.settings ∧
      s.boundary.epoch.level = (s.epoch.evaluated s.evaluate).1 := by
  have counted : Steady s (s.modEpoch fun e => { e with number := e.number + 1 }) := .modEpoch s _ id rfl rfl rfl rfl
  simp only [boundary]
  generalize s.modEpoch (fun e => { e with number := e.number + 1 }) = t at counted
  obtain ⟨kept, settings, level⟩ := t.keeps_setLevel (s.epoch.evaluated s.evaluate).1 (s.epoch.evaluated s.evaluate).2
  generalize t.setLevel (s.epoch.evaluated s.evaluate).1 (s.epoch.evaluated s.evaluate).2 = u at kept settings level
  have told := Steady.offerAll u (.epoch u.epoch.number u.epoch.level .none)
  generalize u.offerAll _ = w at told ⊢
  have rest := (told.trans (steady_offerOccupancy w w.epoch.number s.occupancyValues)).trans
    (steady_closeEpoch _ s.evaluate s.epoch.level)
  exact ⟨(counted.keeps.trans kept).trans rest.keeps, rest.settings.trans (settings.trans counted.settings),
    rest.level.trans level⟩

end State

end Sys2Proof.Machine
end

section
/-! What a frame that needs the configuration right, a reset, a tick and a whole step keep, and the statements about what
every step keeps. -/

namespace Sys2Proof.Machine

/-! ### Resets -/

namespace State

variable (cause : ResetCause) (straps : Straps)

theorem port_initial (m : MasterId) : (State.initial cause straps).port m = Port.initial (straps.right m) := by
  match m with
  | 0 => rfl
  | 1 => rfl
  | 2 => rfl
  | 3 => rfl

theorem freeQueue_initial : (State.initial cause straps).table.freeQueue = List.finRange 1024 := by
  rw [← allIndexes_eq, State.initial]

theorem grant_initial (i : GrantIndex) : (look (State.initial cause straps).table.entries i).grant = none := by
  rw [State.initial]
  simp only [look_replicate]

theorem freeQueueAgrees_initial : (State.initial cause straps).FreeQueueAgrees := by
  refine ⟨?_, fun i => ?_⟩
  · rw [freeQueue_initial]
    exact List.nodup_finRange _
  · rw [freeQueue_initial, grant_initial]
    simp

theorem ageAgrees_initial : Recall.initial.AgeAgrees :=
  ⟨List.nodup_nil, fun k => by simp [Recall.initial]⟩

theorem storeBounded_of_empty {s : State} (h : s.waiting = .initial) : s.StoreBounded := by
  simp [StoreBounded, storeCount, priorityCount_eq, h, Waiting.initial]

theorem tombstonesBounded_of_empty {s : State} (h : s.table.tombstones = Vector.replicate 4 []) :
    s.TombstonesBounded := fun m => by simp [h]

theorem epochTimersAgree_initial : (State.initial cause straps).EpochTimersAgree := by
  rcases straps with ⟨cfgr, _ | _⟩
  · exact ⟨rfl, rfl⟩
  · exact ⟨rfl, rfl⟩

/-- A reset leaves every bound kept and every agreement standing. -/
theorem keeps_initial (s : State) : Keeps s (State.initial cause straps) := by
  refine ⟨fun m => ?_, ⟨fun _ => ?_, fun _ => ?_, fun _ => ?_⟩, fun _ => epochTimersAgree_initial _ _,
    fun _ => storeBounded_of_empty rfl, fun _ => tombstonesBounded_of_empty rfl, fun _ => freeQueueAgrees_initial _ _,
    fun _ => ageAgrees_initial⟩
  · rw [port_initial]
    exact .closed (by simp [Port.Listening, Port.initial]) rfl (fun _ => by simp [Port.initial]) (fun _ => ⟨rfl, rfl⟩)
      fun _ => by simp [Port.initial]
  · exact ⟨by simp [State.initial], by simp [State.initial]⟩
  · exact ⟨by simp [State.initial], fun _ => rfl⟩
  · simp [State.initial]

theorem keeps_powerUp (s : State) (cfgr : BitVec 4) (epm : Bool) : Keeps s (s.powerUp cfgr epm) :=
  (keeps_initial .powerOn ⟨cfgr, epm⟩ s).trans (.of_eq rfl rfl rfl rfl rfl rfl rfl rfl)

theorem keeps_resetLow (s : State) (cfgr : BitVec 4) (epm : Bool) : Keeps s (s.resetLow cfgr epm) :=
  (keeps_initial .resetPin ⟨cfgr, epm⟩ s).trans (.of_eq rfl rfl rfl rfl rfl rfl rfl rfl)

theorem keeps_serveClearFull (s : State) : Keeps s s.serveClearFull :=
  (keeps_initial .clearFull s.responder.straps s).trans (.of_eq rfl rfl rfl rfl rfl rfl rfl rfl)

/-! ### A CLEAR_STATE -/

/-- R165: every entry is freed and stands in the free queue once. -/
theorem freeQueueAgrees_clearTraffic {s : State} (b : s.FreeQueueAgrees) : s.clearTraffic.FreeQueueAgrees := by
  have free (i : GrantIndex) : (look s.clearTraffic.table.entries i).grant = none := by
    change (look (s.table.entries.map Entry.cleared) i).grant = none
    rw [look_map, Entry.cleared]
    split
    · assumption
    · rfl
  have queue : s.clearTraffic.table.freeQueue =
      s.table.freeQueue ++ (List.finRange 1024).filter fun i => (look s.table.entries i).grant.isSome := by
    rw [← allIndexes_eq]
    rfl
  refine ⟨?_, fun i => iff_of_true ?_ (free i)⟩ <;> rw [queue]
  · refine List.nodup_append.mpr ⟨b.1, (List.nodup_finRange _).filter _, fun i hi j hj e => ?_⟩
    subst e
    simp [(b.2 i).mp hi] at hj
  · rcases e : (look s.table.entries i).grant with _ | g
    · exact List.mem_append_left _ ((b.2 i).mpr e)
    · exact List.mem_append_right _ (List.mem_filter.mpr ⟨List.mem_finRange i, by simp [e]⟩)

theorem port_clearTraffic (s : State) (m : MasterId) :
    s.clearTraffic.port m =
      { s.port m with rxBuffer := (s.port m).rxBuffer.filter Instr.isFrameFault, overrun := false } := by
  simp [port, clearTraffic]

theorem keeps_clearTraffic (s : State) : Keeps s s.clearTraffic := by
  refine ⟨fun m => ?_, .refl, id, fun _ => storeBounded_of_empty rfl, fun _ => tombstonesBounded_of_empty rfl,
    freeQueueAgrees_clearTraffic, fun _ => ageAgrees_initial⟩
  rw [port_clearTraffic]
  exact (Port.Keeps.buffer_sublist List.filter_sublist).trans (.of_eq rfl rfl rfl rfl rfl id)

theorem steady_suspendOverrun : ∀ (n : Nat) (s : State), Steady s (suspendOverrun n s)
  | 0, _ => .refl
  | n + 1, s => by
    rw [suspendOverrun]
    split
    · exact .refl
    · exact (Steady.suspend _ _ _).trans (steady_suspendOverrun n _)

theorem level_clearTraffic (s : State) : s.clearTraffic.epoch.level = .normal := rfl

theorem steady_helloAll (s : State) : Steady s s.helloAll := by
  refine Steady.foldl (fun u m => ?_) _ _
  split_ifs
  · exact .offer _ _ _
  · exact .refl

/-- A CLEAR_STATE keeps the bounds and leaves the level NORMAL. -/
theorem keeps_serveClearState (s : State) (m : MasterId) (tag : Half) :
    Keeps s (s.serveClearState m tag) ∧ (s.serveClearState m tag).epoch.level = .normal := by
  have suspended : Steady s s.serveSuspensions := steady_suspendOverrun 4 s
  unfold serveClearState
  generalize s.serveSuspensions = t at suspended ⊢
  have cleared := suspended.keeps.trans (keeps_clearTraffic t)
  have level := level_clearTraffic t
  generalize t.clearTraffic = t at cleared level ⊢
  have told : Steady t (t.answer m tag .done).helloAll :=
    (Steady.offer t m (plainAnswer tag .done)).trans (steady_helloAll _)
  exact ⟨cleared.trans told.keeps, told.level.trans level⟩

end State

/-! ### Configuration writes -/

/-- The part keeps its bounds and agreements and its overload level: so does a configuration write. -/
structure KeepsLevel (s t : State) : Prop where
  keeps : Keeps s t
  level : t.epoch.level = s.epoch.level

namespace KeepsLevel

variable {s t u : State}

theorem of_steady (h : Steady s t) : KeepsLevel s t := ⟨h.keeps, h.level⟩

theorem then_steady (h : KeepsLevel s t) (k : Steady t u) : KeepsLevel s u :=
  ⟨h.keeps.trans k.keeps, k.level.trans h.level⟩

theorem answer (s : State) (m : MasterId) (tag : Half) (o : AnswerCode) : KeepsLevel s (s.answer m tag o) :=
  of_steady (.offer _ _ _)

/-- A record no bound speaks of is written, and DONE is offered. -/
theorem written (h : KeepsLevel s t) (m : MasterId) (tag : Half) : KeepsLevel s (t.answer m tag .done) :=
  h.then_steady (.offer _ _ _)

/-- The pool is written, and DONE is offered. -/
theorem of_pool (pool : Pool) (m : MasterId) (tag : Half) :
    KeepsLevel s (({ s with pool := pool } : State).answer m tag .done) :=
  written (s := s) (t := { s with pool := pool }) ⟨.of_eq rfl rfl rfl rfl rfl rfl rfl rfl, rfl⟩ m tag

/-- The class map is written, and DONE is offered. -/
theorem of_intake (intake : Intake) (m : MasterId) (tag : Half) :
    KeepsLevel s (({ s with intake := intake } : State).answer m tag .done) :=
  written (s := s) (t := { s with intake := intake }) ⟨.of_eq rfl rfl rfl rfl rfl rfl rfl rfl, rfl⟩ m tag

theorem writeCarrier (s : State) (m : MasterId) (tag : Half) (c : CarrierId) (state : Byte) (nominal guard : Half) :
    KeepsLevel s (s.writeCarrier m tag c state nominal guard) := by
  unfold State.writeCarrier
  split
  · exact answer _ _ _ _
  · next st _ =>
    split_ifs
    · exact answer _ _ _ _
    · exact answer _ _ _ _
    · exact answer _ _ _ _
    · exact answer _ _ _ _
    · have base : KeepsLevel s (s.modCarrier c fun k =>
          { k with state := st, nominal := nominal.toNat, guard := guard.toNat }) :=
        ⟨.of_eq rfl rfl rfl rfl rfl rfl rfl rfl, rfl⟩
      refine ((base.written m tag).then_steady ?_).then_steady (.of_works (State.works_finish _))
      unfold State.dueAfterWrite
      split_ifs
      · exact .of_works (State.works_addDue _ _)
      · exact .refl

theorem writeGroup (s : State) (m : MasterId) (tag : Half) (g : GroupId) (mode count : Byte) (members : List Byte) :
    KeepsLevel s (s.writeGroup m tag g mode count members) := by
  unfold State.writeGroup
  split
  · split_ifs
    · exact answer _ _ _ _
    · exact of_pool _ m tag
  · exact answer _ _ _ _

theorem writeClass (s : State) (m : MasterId) (tag : Half) (c : Fin 64) (k : Option ServiceClass) :
    KeepsLevel s (s.writeClass m tag c k) := by
  unfold State.writeClass
  split
  · exact answer _ _ _ _
  · split_ifs
    · exact answer _ _ _ _
    · exact of_intake _ m tag

theorem writeMaster (s : State) (m : MasterId) (tag : Half) (j : MasterId) (new : MasterRecord) (notice : Byte) :
    KeepsLevel s (s.writeMaster m tag j new notice) := by
  unfold State.writeMaster
  split
  · exact answer _ _ _ _
  · next n _ =>
    split_ifs
    · exact answer _ _ _ _
    · have base : KeepsLevel s (s.modMaster j fun r => { new with quotaExcess := r.quotaExcess }) :=
        ⟨.of_eq rfl rfl rfl rfl rfl rfl rfl rfl, rfl⟩
      refine ((base.then_steady ?_).written m tag).then_steady (.of_works (State.works_finish _))
      exact .modPort _ j _ (.of_eq rfl rfl rfl rfl rfl id) rfl
    · exact answer _ _ _ _

theorem writeThresholds (s : State) (m : MasterId) (tag : Half) (i : Fin 3) (x : ThresholdSet) :
    KeepsLevel s (s.writeThresholds m tag i x) := by
  unfold State.writeThresholds
  split_ifs
  · exact KeepsLevel.written ⟨.modEpoch s _ id, rfl⟩ m tag
  · exact answer _ _ _ _
  · exact answer _ _ _ _

theorem writeSetting (m : MasterId) (tag : Half) (low high v : Nat) (h : KeepsLevel s t) :
    KeepsLevel s (s.writeSetting m tag low high v t) := by
  unfold State.writeSetting
  split_ifs
  · exact h.written m tag
  · exact answer _ _ _ _

end KeepsLevel

namespace State

/-- A CONFIG of an entry waits for the right, and then answers OUT_OF_RANGE or writes the entry. -/
theorem withEntry_keepsLevel (s : State) (m : MasterId) (tag : Half) (n : Nat) (index : Byte) (write : Fin n → State)
    (h : ∀ i, KeepsLevel s (write i)) :
    ∃ u, s.withEntry m tag n index write = s.withRight m tag u ∧ KeepsLevel s u := by
  refine ⟨_, rfl, ?_⟩
  split
  · exact .answer _ _ _ _
  · exact h _

theorem serveClearStats_keepsLevel (s : State) (m : MasterId) (tag : Half) (target : Byte) :
    ∃ u, s.serveClearStats m tag target = s.withRight m tag u ∧ KeepsLevel s u := by
  refine ⟨_, rfl, ?_⟩
  split
  · exact .written ⟨.of_works (.stats .refl _ _), rfl⟩ m tag
  · split_ifs
    · exact .written (.of_steady (.of_works (.foldl _ (fun _ _ => .stats .refl _ _) _ _))) m tag
    · exact .answer _ _ _ _

/-- A DEVICE_CLEAR waits for the right, and then clears or answers OUT_OF_RANGE. -/
theorem serveDeviceClear_keeps (s : State) (m : MasterId) (tag : Half) (depth : Nat) :
    ∃ u, s.serveDeviceClear m tag depth = s.withRight m tag u ∧ Keeps s u ∧
      (u.epoch.level = s.epoch.level ∨ (depth = 1 ∨ depth = 2) ∧ u.epoch.level = .normal) := by
  refine ⟨_, rfl, ?_⟩
  split
  · have h := s.keeps_serveClearState m tag
    exact ⟨h.1, .inr ⟨.inl rfl, h.2⟩⟩
  · exact ⟨s.keeps_serveClearFull, .inr ⟨.inr rfl, rfl⟩⟩
  · have h := KeepsLevel.answer s m tag .outOfRange
    exact ⟨h.keeps, .inl h.level⟩

/-- R158: a frame that needs the right waits for it; with it the bounds are kept, and the level unless it is a clear. -/
theorem passInward_of_needsRight {c : Instr} {m : MasterId} {tag : Half} (f : c.needsRight = some (m, tag)) (s : State) :
    ∃ u, s.passInward c = s.withRight m tag u ∧ Keeps s u ∧
      (u.epoch.level = s.epoch.level ∨ (WellFormed c = true → c.clears = true) ∧ u.epoch.level = .normal) := by
  have config {t : State} (h : ∃ u, t = s.withRight m tag u ∧ KeepsLevel s u) :
      ∃ u, t = s.withRight m tag u ∧ Keeps s u ∧
        (u.epoch.level = s.epoch.level ∨ (WellFormed c = true → c.clears = true) ∧ u.epoch.level = .normal) := by
    obtain ⟨u, e, k⟩ := h
    exact ⟨u, e, k.keeps, .inl k.level⟩
  cases c <;> simp only [Instr.needsRight, Option.some.injEq, Prod.mk.injEq, reduceCtorEq] at f <;>
    obtain ⟨rfl, rfl⟩ := f
  case configCarrier => exact config (withEntry_keepsLevel _ _ _ _ _ _ fun _ => .writeCarrier _ _ _ _ _ _ _)
  case configGroup => exact config (withEntry_keepsLevel _ _ _ _ _ _ fun _ => .writeGroup _ _ _ _ _ _ _)
  case configClass => exact config (withEntry_keepsLevel _ _ _ _ _ _ fun _ => .writeClass _ _ _ _ _)
  case configMaster => exact config (withEntry_keepsLevel _ _ _ _ _ _ fun _ => .writeMaster _ _ _ _ _ _)
  case configThresholdSet => exact config (withEntry_keepsLevel _ _ _ _ _ _ fun _ => .writeThresholds _ _ _ _ _)
  case configFallPersistence =>
    exact config (withEntry_keepsLevel _ _ _ _ _ _ fun _ => .writeSetting _ _ _ _ _ ⟨.modEpoch _ _ id, rfl⟩)
  case configEpochInterval =>
    exact config (withEntry_keepsLevel _ _ _ _ _ _ fun _ => .writeSetting _ _ _ _ _ ⟨.modEpoch _ _ id, rfl⟩)
  case configThinRatio =>
    exact config (withEntry_keepsLevel _ _ _ _ _ _ fun _ =>
      .writeSetting _ _ _ _ _ ⟨.of_eq rfl rfl rfl rfl rfl rfl rfl rfl, rfl⟩)
  case configRadioSilencePeriod =>
    exact config (withEntry_keepsLevel _ _ _ _ _ _ fun _ =>
      .writeSetting _ _ _ _ _ ⟨.modRadio _ _ ⟨id, id, id⟩, rfl⟩)
  case configUnknownTable => exact config ⟨_, rfl, .answer _ _ _ _⟩
  case clearStats => exact config (serveClearStats_keepsLevel _ _ _ _)
  case clearState m tag =>
    obtain ⟨u, e, k, l⟩ := serveDeviceClear_keeps s m tag 1
    exact ⟨u, e, k, l.imp_right fun h => ⟨fun _ => rfl, h.2⟩⟩
  case clearFull m tag =>
    obtain ⟨u, e, k, l⟩ := serveDeviceClear_keeps s m tag 2
    exact ⟨u, e, k, l.imp_right fun h => ⟨fun _ => rfl, h.2⟩⟩
  case deviceClearUnknownDepth m tag depth =>
    obtain ⟨u, e, k, l⟩ := serveDeviceClear_keeps s m tag depth.toNat
    refine ⟨u, e, k, l.imp_right fun h => ⟨fun w => ?_, h.2⟩⟩
    simp only [WellFormed, Bool.and_eq_true, bne_iff_ne, ne_eq] at w
    exact absurd h.1 (by simp [w])

/-! ### Ticks and epoch timers -/

/-- The level has moved by one step, or stayed. -/
def StepsLevel (s t : State) : Prop :=
  t.epoch.level = s.epoch.level ∨ t.epoch.level.rank = s.epoch.level.rank + 1 ∨
    s.epoch.level.rank = t.epoch.level.rank + 1

/-- R135: an evaluation moves the level by at most one step. -/
theorem rank_evaluated (e : EpochUnit) (v : Evaluation) :
    (e.evaluated v).1 = e.level ∨ (e.evaluated v).1.rank = e.level.rank + 1 ∨
      e.level.rank = (e.evaluated v).1.rank + 1 := by
  have fall : (e.afterFallTest v).1 = e.level ∨ e.level.rank = (e.afterFallTest v).1.rank + 1 := by
    unfold EpochUnit.afterFallTest
    split
    · exact .inl rfl
    · next i down =>
      split_ifs
      · cases l : e.level <;> simp_all [Load.stepDown, Load.previous, Load.rank]
      · exact .inl rfl
      · exact .inl rfl
  unfold EpochUnit.evaluated
  split
  · next i up =>
    split_ifs
    · cases l : e.level <;> simp_all [Load.stepUp, Load.next, Load.rank]
    · exact fall.imp_right .inr
  · exact fall.imp_right .inr

/-- What a tick or an epoch timer may do: the bounds and the settings are kept, the level moves by one step at most. -/
structure MovesEpoch (s t : State) : Prop where
  keeps : Keeps s t
  settings : t.settings = s.settings
  level : s.StepsLevel t

theorem MovesEpoch.of_steady {s t : State} (h : Steady s t) : s.MovesEpoch t := ⟨h.keeps, h.settings, .inl h.level⟩

/-- The timers are set, and a boundary is served. -/
theorem MovesEpoch.boundary {s t : State} (h : Steady s t) : s.MovesEpoch t.boundary := by
  obtain ⟨keeps, settings, level⟩ := t.keeps_boundary
  refine ⟨h.keeps.trans keeps, settings.trans h.settings, ?_⟩
  have rank := rank_evaluated t.epoch t.evaluate
  rw [← level, h.level] at rank
  exact rank

theorem steady_startInterval (s : State) (h : s.EpochTimersAgree → s.epoch.state ≠ .follow ∧ s.epoch.lossTimer = none) :
    Steady s s.startInterval := by
  refine .modEpoch s _ (fun b => ?_) rfl rfl rfl rfl
  obtain ⟨state, loss⟩ := h b
  cases e : s.epoch.state <;> simp_all [EpochTimersAgree]

theorem movesEpoch_expireInterval (s : State) : s.MovesEpoch s.expireInterval := by
  have started (state : s.epoch.state ≠ .follow) : Steady s s.startInterval :=
    s.steady_startInterval fun b => by
      refine ⟨state, ?_⟩
      cases e : s.epoch.state <;> simp_all [EpochTimersAgree]
  unfold expireInterval
  split
  · next source _ =>
    split_ifs
    · exact .boundary (started (by simp [source]))
    · exact .of_steady .refl
  · next lost _ =>
    split_ifs
    · exact .boundary (started (by simp [lost]))
    · exact .of_steady .refl
  · exact .of_steady .refl

theorem movesEpoch_expireLoss (s : State) : s.MovesEpoch s.expireLoss := by
  unfold expireLoss
  split
  · next follow _ =>
    split_ifs
    · refine .boundary (t := (s.modEpoch fun e => { e with state := .followLost, lossTimer := none }).startInterval) ?_
      exact .modEpoch s (fun e => { e with
        state := .followLost, lossTimer := none, intervalTimer := some (e.timebase + e.epochInterval) })
        (fun _ => ⟨rfl, rfl⟩) rfl rfl rfl rfl
    · exact .of_steady .refl
  · exact .of_steady .refl

theorem movesEpoch_serveTick (s : State) (n : Fin 64) : s.MovesEpoch (s.serveTick n) := by
  unfold serveTick
  split
  · exact .of_steady .refl
  · next follow =>
    have running (b : s.EpochTimersAgree) : s.epoch.intervalTimer = none := by
      simp only [EpochTimersAgree, follow] at b
      exact b.1
    split_ifs
    · exact .boundary (.modEpoch s _ (fun b => by simp [EpochTimersAgree, follow, running b]) rfl rfl rfl rfl)
    · refine .of_steady (.trans (.modEpoch s _ (fun b => ?_) rfl rfl rfl rfl) (.offerAll _ _))
      simp [EpochTimersAgree, follow, running b]
  · refine .of_steady (.trans (.modEpoch s _ (fun _ => ?_) rfl rfl rfl rfl) (.offerAll _ _))
    exact ⟨rfl, rfl⟩

/-! ### Frames passed inward -/

/-- A QUERY is served by its kind and index. -/
theorem passInward_of_query {c : Instr} {m : MasterId} {tag : Half} {kind : Byte} {index : Half}
    (q : c.queryFields = some (m, tag, kind, index)) (s : State) :
    s.passInward c = s.serveQuery m tag kind index := by
  cases c <;> simp only [Instr.queryFields, Option.some.injEq, Prod.mk.injEq, reduceCtorEq] at q <;>
    obtain ⟨rfl, rfl, rfl, rfl⟩ := q <;> rfl

/-- Every frame that needs no right and is no tick. -/
theorem steady_passInward {c : Instr} (f : c.needsRight = none) (n : ∀ x, c ≠ .epochTick x) (s : State) :
    Steady s (s.passInward c) := by
  rcases q : c.queryFields with _ | ⟨m, tag, kind, index⟩
  swap
  · rw [passInward_of_query q]
    exact .of_works (works_serveQuery _ _ _ _ _)
  cases c
  case frameFault m => exact .countFrameFault s m
  case admitRequest => exact .serveAdmit _ _ _ _ _ _
  case commit => exact .of_works (works_commitFrame _ _ _ _)
  case release => exact .of_works (works_releaseFrame _ _ _ _)
  case cancel => exact .of_works (works_serveCancel _ _ _ _)
  case queryCarrier | queryGroup | queryClass | queryWaiting | queryCase | queryEpoch | queryMaster | queryGrant |
    queryGrantTable | queryUnknownKind => cases q
  case clearFault => exact .serveClearFault _ _ _ _
  case radioOpen => exact .openRadio _ _
  case carrierReport => exact .report _ _ _
  case epochTick x => exact absurd rfl (n x)
  case configCarrier | configGroup | configClass | configMaster | configThresholdSet | configFallPersistence |
    configEpochInterval | configThinRatio | configRadioSilencePeriod | configUnknownTable | clearState | clearFull |
    deviceClearUnknownDepth | clearStats => cases f
  all_goals exact .refl

/-- Passing a frame inward: what it keeps, when it may change the settings, and how it may move the level. -/
structure PassesInward (c : Instr) (s t : State) : Prop where
  keeps : Keeps s t
  settings : t.settings = s.settings ∨ ∃ m tag, c.needsRight = some (m, tag) ∧ (s.port m).configRight = true
  level : t.epoch.level = s.epoch.level ∨ (c.movesEpoch = true ∧ s.StepsLevel t) ∨
    ((WellFormed c = true → c.clears = true) ∧ t.epoch.level = .normal)

theorem PassesInward.of_steady {c : Instr} {s t : State} (h : Steady s t) : PassesInward c s t :=
  ⟨h.keeps, .inl h.settings, .inl h.level⟩

theorem passesInward (c : Instr) (s : State) : PassesInward c s (s.passInward c) := by
  rcases f : c.needsRight with _ | ⟨m, tag⟩
  · by_cases tick : ∃ x, c = .epochTick x
    · obtain ⟨x, rfl⟩ := tick
      have h := s.movesEpoch_serveTick (Fin.ofNat 64 x.toNat)
      exact ⟨h.keeps, .inl h.settings, .inr (.inl ⟨rfl, h.level⟩)⟩
    · exact .of_steady (steady_passInward f (fun x e => tick ⟨x, e⟩) s)
  · obtain ⟨u, e, keeps, level⟩ := passInward_of_needsRight f s
    by_cases right : (s.port m).configRight = true
    · rw [e, withRight_of_right right]
      exact ⟨keeps, .inr ⟨m, tag, f, right⟩, level.imp_right .inr⟩
    · rw [e, withRight_of_not (by simpa using right)]
      exact .of_steady (.offer _ _ _)

end State

/-! ### Every command -/

/-- How every command reaches its meaning: a frame by its port, a report or a tick by the radio port; resets and epoch
timers by themselves; and every other command is steady. -/
theorem exec_cases (c : Instr) (s : State) :
    (∃ m, c.frameOn = some m ∧ exec c s = .next (s.onFrame m c fun u => u.passInward c)) ∨
    (((∃ k v, c = .carrierReport k v) ∨ ∃ n, c = .epochTick n) ∧
      exec c s = .next (s.onRadioFrame c fun u => u.passInward c)) ∨
    (∃ cfgr epm, (c = .powerOn cfgr epm ∧ exec c s = .next (s.powerUp cfgr epm)) ∨
      (c = .resetPin cfgr epm ∧ exec c s = .next (s.resetLow cfgr epm))) ∨
    (c = .intervalTimerExpiry ∧ exec c s = .next s.expireInterval) ∨
    (c = .lossTimerExpiry ∧ exec c s = .next s.expireLoss) ∨
    ∃ t, exec c s = .next t ∧ Steady s t := by
  have steady {t : State} (e : exec c s = .next t) (h : Steady s t) : ∃ t, exec c s = .next t ∧ Steady s t := ⟨t, e, h⟩
  cases c
  case powerOn cfgr epm => exact .inr (.inr (.inl ⟨cfgr, epm, .inl ⟨rfl, rfl⟩⟩))
  case resetPin cfgr epm => exact .inr (.inr (.inl ⟨cfgr, epm, .inr ⟨rfl, rfl⟩⟩))
  case intervalTimerExpiry => exact .inr (.inr (.inr (.inl ⟨rfl, rfl⟩)))
  case lossTimerExpiry => exact .inr (.inr (.inr (.inr (.inl ⟨rfl, rfl⟩))))
  case carrierReport k v => exact .inr (.inl ⟨.inl ⟨k, v, rfl⟩, rfl⟩)
  case epochTick n => exact .inr (.inl ⟨.inr ⟨n, rfl⟩, rfl⟩)
  case configGroup m tag index mode count members =>
    by_cases short : members.length < memberBytesNeeded count
    · refine .inr (.inr (.inr (.inr (.inr (steady ?_ (.noteFault s m))))))
      simp [exec, execConfigGroup, short]
    · refine .inl ⟨m, rfl, ?_⟩
      simp only [exec, execConfigGroup, if_neg short]
      rfl
  case configUnknownTable m tag table index =>
    by_cases listed : 1 ≤ table.toNat ∧ table.toNat ≤ 9
    · refine .inr (.inr (.inr (.inr (.inr (steady ?_ (.noteFault s m))))))
      simp [exec, execConfigUnknownTable, listed]
    · refine .inl ⟨m, rfl, ?_⟩
      simp only [exec, execConfigUnknownTable, if_neg listed]
      rfl
  case presence m | admitRequest m _ _ _ _ | commit m _ _ | release m _ _ | cancel m _ _ | queryCarrier m _ _ |
    queryGroup m _ _ | queryClass m _ _ | queryWaiting m _ _ | queryCase m _ _ | queryEpoch m _ _ | queryMaster m _ _ |
    queryGrant m _ _ | queryGrantTable m _ _ | queryUnknownKind m _ _ _ | clearFault m _ _ | configCarrier m _ _ _ _ _ |
    configClass m _ _ _ _ _ _ _ _ _ _ _ | configMaster m _ _ _ _ _ _ _ _ _ | configThresholdSet m _ _ _ _ _ _ |
    configFallPersistence m _ _ _ | configEpochInterval m _ _ _ | configThinRatio m _ _ _ |
    configRadioSilencePeriod m _ _ _ | clearState m _ | clearFull m _ | deviceClearUnknownDepth m _ _ |
    clearStats m _ _ => exact .inl ⟨m, rfl, rfl⟩
  all_goals refine .inr (.inr (.inr (.inr (.inr (steady rfl ?_)))))
  case linkOpen => exact .takeLinkOpen _ _ _ _
  case frameFault | receiveBufferOverflow => exact .noteFault _ _
  case radioOpen tag =>
    split_ifs
    · exact .refl
    · split <;> exact .openRadio _ _
    · split
      · exact .openRadio _ _
      all_goals
        next l => exact .holdRadioOpen (by simp [l]) _
  case radioFrameFault | radioReceiveBufferOverflow => exact .refl
  case holdExpiry => exact .of_works (State.works_expireHold _ _)
  case waitExpiry => exact .of_works (State.works_expireWait _ _ _)
  case recallDeadlineExpiry => exact .of_works (State.works_expireRecall _ _)
  case silenceExpiry => exact .expireSilence _ _
  case orphanStage1 => exact .expireOrphan1 _ _
  case orphanStage2 => exact .expireOrphan2 _ _
  case radioSilenceExpiry => exact .expireRadioSilence _
  case suspension =>
    split_ifs
    · exact .suspend _ _ _
    · exact .refl
  case outboundSend => exact .beginSend _ _
  case outboundFrameSent m => exact .modPort s m _ (.of_eq rfl rfl rfl rfl rfl id) rfl
  case radioOutboundSend =>
    refine .modRadio s _ ⟨fun b => ⟨?_, ?_⟩, fun b => b, fun b => b⟩ rfl
    · have := b.1
      simp only [List.length_tail]
      omega
    · exact le_trans ((List.tail_sublist _).filter _).length_le b.2
  case pinResetEnd => exact ⟨.of_eq rfl rfl rfl rfl rfl rfl rfl rfl, rfl, rfl⟩

/-- Every command keeps the bounds, changes the settings only as a reset or with the right of a link it is served on, and
moves the level only at a boundary, a reset or a clear. -/
structure Executes (c : Instr) (s t : State) : Prop where
  keeps : Keeps s t
  settings : t.settings = s.settings ∨ (∃ m tag, c.needsRight = some (m, tag) ∧ s.MayWrite m) ∨
    ∃ cfgr epm, c = .powerOn cfgr epm ∨ c = .resetPin cfgr epm
  level : t.epoch.level = s.epoch.level ∨ (c.movesEpoch = true ∧ s.StepsLevel t) ∨
    ((WellFormed c = true → c.clears = true) ∧ t.epoch.level = .normal)

theorem Executes.of_steady {c : Instr} {s t : State} (h : Steady s t) : Executes c s t :=
  ⟨h.keeps, .inl h.settings, .inl h.level⟩

theorem Executes.of_movesEpoch {c : Instr} {s t : State} (m : c.movesEpoch = true) (h : s.MovesEpoch t) :
    Executes c s t := ⟨h.keeps, .inl h.settings, .inr (.inl ⟨m, h.level⟩)⟩

/-- The port of a link that a frame needs the right of is the port it arrives on. -/
theorem frameOn_of_needsRight {c : Instr} {m : MasterId} {tag : Half} (f : c.needsRight = some (m, tag)) :
    c.frameOn = some m := by
  cases c <;> simp only [Instr.needsRight, Option.some.injEq, Prod.mk.injEq, reduceCtorEq] at f <;>
    rw [← f.1] <;> rfl

theorem isRadioFrame_of_radioFrame {c : Instr} (h : (∃ k v, c = .carrierReport k v) ∨ ∃ n, c = .epochTick n) :
    c.isRadioFrame = true ∧ c.needsRight = none := by
  rcases h with ⟨k, v, rfl⟩ | ⟨n, rfl⟩ <;> exact ⟨rfl, rfl⟩

theorem executes {c : Instr} {s t : State} (h : exec c s = .next t) : Executes c s t := by
  rcases exec_cases c s with ⟨m, f, e⟩ | ⟨f, e⟩ | ⟨cfgr, epm, ⟨f, e⟩ | ⟨f, e⟩⟩ | ⟨f, e⟩ | ⟨f, e⟩ | ⟨u, e, k⟩ <;>
    obtain rfl := Host.Outcome.next.inj (e.symm.trans h)
  · rcases s.onFrame_cases m c fun u => u.passInward c with ⟨serves, e⟩ | e <;> rw [e]
    · have woken := Steady.wake serves.1
      have inward := State.passesInward c (s.wake m)
      refine ⟨woken.keeps.trans inward.keeps, ?_, ?_⟩
      · refine inward.settings.imp (fun k => k.trans woken.settings) fun ⟨j, tag, n, right⟩ => .inl ⟨j, tag, n, ?_⟩
        have same : m = j := Option.some.inj (f.symm.trans (frameOn_of_needsRight n))
        subst same
        exact ⟨serves, by simpa using right⟩
      · have level := inward.level
        simp only [State.StepsLevel, woken.level] at level ⊢
        exact level
    · exact .of_steady (.hold f s)
  · rcases s.onRadioFrame_cases c fun u => u.passInward c with ⟨serves, e⟩ | e <;> rw [e]
    · have woken := Steady.wakeRadio s
      have inward := State.passesInward c s.wakeRadio
      refine ⟨woken.keeps.trans inward.keeps, ?_, ?_⟩
      · refine .inl (inward.settings.elim (fun k => k.trans woken.settings) fun ⟨j, tag, n, _⟩ => ?_)
        rw [(isRadioFrame_of_radioFrame f).2] at n
        cases n
      · have level := inward.level
        simp only [State.StepsLevel, woken.level] at level ⊢
        exact level
    · exact .of_steady (.holdRadio (isRadioFrame_of_radioFrame f).1 s)
  · exact ⟨s.keeps_powerUp cfgr epm, .inr (.inr ⟨cfgr, epm, .inl f⟩), .inr (.inr ⟨fun _ => by rw [f]; rfl, rfl⟩)⟩
  · exact ⟨s.keeps_resetLow cfgr epm, .inr (.inr ⟨cfgr, epm, .inr f⟩), .inr (.inr ⟨fun _ => by rw [f]; rfl, rfl⟩)⟩
  · exact .of_movesEpoch (by rw [f]; rfl) s.movesEpoch_expireInterval
  · exact .of_movesEpoch (by rw [f]; rfl) s.movesEpoch_expireLoss
  · exact .of_steady k

/-! ### Every step, every arrival -/

theorem steady_tick (s : State) : Steady s s.tick := by
  unfold State.tick
  split_ifs
  · exact .refl
  · exact .modEpoch s _ id rfl rfl rfl rfl

theorem Steady.popBuffer {s : State} {m : MasterId} {c : Instr} {rest : List Instr}
    (e : (s.port m).rxBuffer = c :: rest) : Steady s (s.modPort m fun p => { p with rxBuffer := rest }) :=
  .modPort s m _ (.buffer_sublist (by rw [e]; exact List.sublist_cons_self _ _)) rfl

theorem Steady.popRadioBuffer {s : State} {c : Instr} {rest : List Instr} (e : s.radio.rxBuffer = c :: rest) :
    Steady s (s.modRadio fun r => { r with rxBuffer := rest }) := by
  have tail : rest = s.radio.rxBuffer.tail := by rw [e]; rfl
  subst tail
  exact .modRadio s _ .buffer_tail rfl

theorem keeps_passWaiting {s t : State} (h : s.passWaiting = some t) : Keeps s t := by
  rcases State.passWaiting_cases h with ⟨m, c, rest, -, e, rfl⟩ | ⟨c, rest, -, e, rfl⟩
  · exact (Steady.popBuffer e).keeps.trans (State.passesInward c _).keeps
  · exact (Steady.popRadioBuffer e).keeps.trans (State.passesInward c _).keeps

/-- Every step keeps every bound and agreement. -/
theorem step_keeps {s t : State} (h : Machine.step s = .next t) : Keeps s t := by
  rcases step_cases h with ⟨c, rest, -, e⟩ | ⟨-, c, -, e⟩ | ⟨-, -, e⟩ | ⟨-, -, -, rfl⟩
  · have front : Keeps s { s with pending := rest } := .of_eq rfl rfl rfl rfl rfl rfl rfl rfl
    exact front.trans (executes e).keeps
  · exact (executes e).keeps
  · exact keeps_passWaiting e
  · exact (steady_tick s).keeps

/-- Every arrival keeps every bound and agreement. -/
theorem arrive_keeps (c : Instr) (s : State) : Keeps s (s.arrive c) := by
  rcases s.arrive_cases c with ⟨m, f, e⟩ | ⟨m, notice, keep, -, e⟩ | ⟨m, -, e⟩ | ⟨-, e⟩ | ⟨cfgr, epm, ⟨-, e⟩ | ⟨-, e⟩⟩ |
    ⟨-, e⟩ | ⟨f, e⟩ | ⟨tag, -, e⟩ | e <;> rw [e]
  · exact (Steady.hold f s).keeps
  · exact (Steady.takeLinkOpen s m notice keep).keeps
  · exact (Steady.noteFault s m).keeps
  · exact .refl
  · exact s.keeps_powerUp cfgr epm
  · exact s.keeps_resetLow cfgr epm
  · exact .of_eq rfl rfl rfl rfl rfl rfl rfl rfl
  · exact (Steady.holdRadio (isRadioFrame_of_radioFrame f).1 s).keeps
  · split_ifs with l
    · exact (Steady.takeRadioOpen s tag).keeps
    · exact (Steady.holdRadioOpen l tag).keeps
  · exact .of_eq rfl rfl rfl rfl rfl rfl rfl rfl

namespace Keeps

variable {s t : State}

theorem queuesBounded (h : Keeps s t) (b : s.QueuesBounded) : t.QueuesBounded := fun m => (h.ports m).queue (b m)

theorem radioQueueBounded (h : Keeps s t) (b : s.RadioQueueBounded) : t.RadioQueueBounded := h.radio.queue b

theorem buffersBounded (h : Keeps s t) (b : s.BuffersBounded) : t.BuffersBounded := by
  obtain ⟨ports, radio⟩ := b
  exact ⟨fun m => (h.ports m).buffer (ports m), h.radio.buffer radio⟩

theorem buffersOwn (h : Keeps s t) (b : s.BuffersOwn) : t.BuffersOwn := by
  obtain ⟨ports, radio⟩ := b
  exact ⟨fun m => (h.ports m).own (ports m), h.radio.own radio⟩

theorem faultsBounded (h : Keeps s t) (b : s.FaultsBounded) : t.FaultsBounded := fun m => (h.ports m).faults (b m)

theorem linkTimersAgree (h : Keeps s t) (b : s.LinkTimersAgree) : t.LinkTimersAgree := fun m => (h.ports m).timers (b m)

end Keeps

/-- Settles O54: a step and an arrival keep every bound. -/
theorem queuesAndFaultCountsStayBounded : Obligations.QueuesAndFaultCountsStayBounded := by
  unfold Obligations.QueuesAndFaultCountsStayBounded
  intro kept
  have all {s t : State} (h : Keeps s t) : kept s t :=
    ⟨h.queuesBounded, h.radioQueueBounded, h.buffersBounded, h.buffersOwn, h.faultsBounded⟩
  exact ⟨fun s t h => all (step_keeps h), fun c s => all (arrive_keeps c s)⟩

/-- Settles O55: a step keeps every bound. -/
theorem storeAndTombstonesStayBounded : Obligations.StoreAndTombstonesStayBounded :=
  fun _ _ h => ⟨(step_keeps h).store, (step_keeps h).tombstones⟩

/-- Settles O56: a step keeps the agreement of every port's timers with its link, and of the epoch timers. -/
theorem timersStayInAgreement : Obligations.TimersStayInAgreement :=
  fun _ _ h => ⟨(step_keeps h).linkTimersAgree, (step_keeps h).clock⟩

/-- Settles O57: a step keeps both agreements. -/
theorem freeQueueAndAgeStayInAgreement : Obligations.FreeQueueAndAgeStayInAgreement :=
  fun _ _ h => ⟨(step_keeps h).freeQueue, (step_keeps h).age⟩

/-! ### The level and the settings -/

/-- The part's own events: no frames, no resets and no clears. -/
def Instr.isOwnEvent : Instr → Bool
  | .suspension _ => true
  | .holdExpiry _ => true
  | .recallDeadlineExpiry _ => true
  | .waitExpiry _ _ => true
  | .silenceExpiry _ => true
  | .orphanStage1 _ => true
  | .orphanStage2 _ => true
  | .radioSilenceExpiry => true
  | .intervalTimerExpiry => true
  | .lossTimerExpiry => true
  | _ => false

theorem isOwnEvent_of_dueOnEntries {now : Time} {c : Instr} :
    ∀ {l : List Entry} {i : Nat}, dueOnEntries now i l = some c → Instr.isOwnEvent c = true
  | [], _, h => nomatch h
  | e :: rest, i, h => by
    rw [dueOnEntries] at h
    split at h
    · next x due =>
      obtain rfl := Option.some.inj h
      unfold Entry.dueCommand at due
      split at due
      · cases due
      · split at due
        · split_ifs at due
          cases due
          rfl
        · split_ifs at due
          cases due
          rfl
        · cases due
        · cases due
    · exact isOwnEvent_of_dueOnEntries h

theorem isOwnEvent_of_dueOnList {now : Time} {l : List WaitEntry} {c : Instr} (h : dueOnList now l = some c) :
    Instr.isOwnEvent c = true := by
  obtain ⟨w, -, rfl⟩ := Option.map_eq_some_iff.mp h
  rfl

theorem isOwnEvent_of_port {now : Time} {m : MasterId} {p : Port} {c : Instr} (h : p.dueCommand now m = some c) :
    Instr.isOwnEvent c = true := by
  unfold Port.dueCommand at h
  split at h
  case h_4 | h_5 => cases h
  all_goals
    split_ifs at h
    cases h
    rfl

theorem isOwnEvent_of_radio {now : Time} {r : RadioPort} {c : Instr} (h : r.dueCommand now = some c) :
    Instr.isOwnEvent c = true := by
  unfold RadioPort.dueCommand at h
  split at h
  · split_ifs at h
    cases h
    rfl
  · cases h
  · cases h

theorem isOwnEvent_of_epoch {e : EpochUnit} {c : Instr} (h : e.dueCommand = some c) : Instr.isOwnEvent c = true := by
  unfold EpochUnit.dueCommand at h
  split at h <;> split_ifs at h <;> cases h <;> rfl

theorem isOwnEvent_of_dueEvent {s : State} {c : Instr} (h : s.dueEvent = some c) : Instr.isOwnEvent c = true := by
  simp only [State.dueEvent, Option.or_eq_some_iff] at h
  rcases h with (((h | ⟨-, h⟩) | ⟨-, h⟩) | ⟨-, h⟩) | ⟨-, h | ⟨-, h | ⟨-, h | ⟨-, h⟩⟩⟩⟩
  · obtain ⟨m, -, rfl⟩ := Option.map_eq_some_iff.mp h
    rfl
  · exact isOwnEvent_of_dueOnEntries h
  · exact isOwnEvent_of_dueOnList h
  · obtain ⟨m, -, due⟩ := List.exists_of_findSome?_eq_some h
    exact isOwnEvent_of_dueOnList due
  · obtain ⟨m, -, due⟩ := List.exists_of_findSome?_eq_some h
    exact isOwnEvent_of_dueOnList due
  · obtain ⟨m, -, due⟩ := List.exists_of_findSome?_eq_some h
    exact isOwnEvent_of_port due
  · exact isOwnEvent_of_radio h
  · exact isOwnEvent_of_epoch h

/-- An own event is well formed, no clear and no reset, and needs no right. -/
theorem Instr.isOwnEvent_spec {c : Instr} (h : Instr.isOwnEvent c = true) :
    WellFormed c = true ∧ c.clears = false ∧ c.needsRight = none := by
  cases c
  case suspension | holdExpiry | recallDeadlineExpiry | waitExpiry | silenceExpiry | orphanStage1 | orphanStage2 |
    radioSilenceExpiry | intervalTimerExpiry | lossTimerExpiry => exact ⟨rfl, rfl, rfl⟩
  all_goals cases h

theorem needsRight_of_isRadioFrame {c : Instr} (h : c.isRadioFrame = true) : c.needsRight = none := by
  cases c
  case radioOpen | carrierReport | epochTick => rfl
  all_goals cases h

theorem Executes.level_of_wellFormed {c : Instr} {s t : State} (h : Executes c s t) (w : WellFormed c = true)
    (n : t.epoch.level ≠ s.epoch.level) :
    (c.movesEpoch = true ∧ (t.epoch.level.rank = s.epoch.level.rank + 1 ∨
      s.epoch.level.rank = t.epoch.level.rank + 1)) ∨ (c.clears = true ∧ t.epoch.level = .normal) := by
  rcases h.level with l | ⟨m, l⟩ | ⟨k, l⟩
  · exact absurd l n
  · exact .inl ⟨m, l.resolve_left n⟩
  · exact .inr ⟨k w, l⟩

theorem State.PassesInward.level_of_wellFormed {c : Instr} {s t : State} (h : State.PassesInward c s t)
    (n : t.epoch.level ≠ s.epoch.level) (w : WellFormed c = true) :
    (c.movesEpoch = true ∧ (t.epoch.level.rank = s.epoch.level.rank + 1 ∨
      s.epoch.level.rank = t.epoch.level.rank + 1)) ∨ (c.clears = true ∧ t.epoch.level = .normal) := by
  rcases h.level with l | ⟨m, l⟩ | ⟨k, l⟩
  · exact absurd l n
  · exact .inl ⟨m, l.resolve_left n⟩
  · exact .inr ⟨k w, l⟩

/-- Settles O58: `executes` for a command, `State.passesInward` for a frame that waits; an own event is no clear. -/
theorem levelMovesOneStep : Obligations.LevelMovesOneStep := by
  refine fun s t => ⟨fun c w h n => (executes h).level_of_wellFormed w n, fun empty h n => ?_⟩
  rcases step_cases h with ⟨c, rest, e, -⟩ | ⟨-, c, due, e⟩ | ⟨-, due, e⟩ | ⟨-, -, -, rfl⟩
  · simp [empty] at e
  · obtain ⟨w, clears, -⟩ := Instr.isOwnEvent_spec (isOwnEvent_of_dueEvent due)
    rcases (executes e).level_of_wellFormed w n with moved | ⟨k, -⟩
    · exact .inl ⟨c, due, moved⟩
    · rw [clears] at k
      cases k
  · refine .inr ⟨due, ?_⟩
    rcases State.passWaiting_cases e with ⟨m, c, rest, l, buffer, rfl⟩ | ⟨c, rest, l, buffer, rfl⟩
    · exact ⟨c, .inl ⟨m, l, by simp [buffer]⟩, (State.passesInward c _).level_of_wellFormed n⟩
    · exact ⟨c, .inr ⟨l, by simp [buffer]⟩, (State.passesInward c _).level_of_wellFormed n⟩
  · exact absurd (steady_tick s).level n

/-- Settles O59: `executes` for a command, `State.passesInward` for a frame that waits; own events and frames of the radio
head need no right. -/
theorem settingsChangeOnlyByRight : Obligations.SettingsChangeOnlyByRight := by
  refine ⟨fun c s t h n => (executes h).settings.resolve_left n, fun s t own empty h n => ?_⟩
  rcases step_cases h with ⟨c, rest, e, -⟩ | ⟨-, c, due, e⟩ | ⟨-, due, e⟩ | ⟨-, -, -, rfl⟩
  · simp [empty] at e
  · have event := isOwnEvent_of_dueEvent due
    have free := (Instr.isOwnEvent_spec event).2.2
    rcases (executes e).settings.resolve_left n with ⟨m, tag, f, -⟩ | ⟨cfgr, epm, rfl | rfl⟩
    · rw [free] at f
      cases f
    · cases event
    · cases event
  · refine ⟨due, ?_⟩
    obtain ⟨ports, radio⟩ := own
    rcases State.passWaiting_cases e with ⟨m, c, rest, l, buffer, rfl⟩ | ⟨c, rest, l, buffer, rfl⟩
    · have popped := Steady.popBuffer buffer
      obtain ⟨j, tag, f, right⟩ := (State.passesInward c _).settings.resolve_left (by rwa [popped.settings])
      have same : j = m := by
        rcases ports m c (by simp [buffer]) with on | rfl
        · exact Option.some.inj ((frameOn_of_needsRight f).symm.trans on)
        · cases f
      subst same
      refine ⟨c, j, tag, by simp [buffer], f, l, ?_⟩
      rwa [State.port_modPort_same] at right
    · have popped := Steady.popRadioBuffer buffer
      obtain ⟨j, tag, f, -⟩ := (State.passesInward c _).settings.resolve_left (by rwa [popped.settings])
      rw [needsRight_of_isRadioFrame (radio c (by simp [buffer]))] at f
      cases f
  · exact absurd (steady_tick s).settings n

end Sys2Proof.Machine
end

section
/-! The step: which of the commands, due events and waiting frames it serves, and what lies ahead when it serves none. -/

namespace Sys2Proof.Machine

/-- Settles O1, by the definition of the step. -/
theorem stepServesFrontCommand : Obligations.StepServesFrontCommand := by
  intro c rest s front
  simp [step, front]

/-- The masters before a master in number order. -/
theorem allMasters_split (m : MasterId) :
    ∃ before after, allMasters = before ++ m :: after ∧ ∀ j ∈ before, j < m := by
  match m with
  | 0 => exact ⟨[], [1, 2, 3], rfl, by simp⟩
  | 1 => exact ⟨[0], [2, 3], rfl, by decide⟩
  | 2 => exact ⟨[0, 1], [3], rfl, by decide⟩
  | 3 => exact ⟨[0, 1, 2], [], rfl, by decide⟩

namespace State

variable {s : State}

/-- A port with an empty buffer passes nothing inward. -/
theorem nextFrame_of_empty {m : MasterId} (h : s.Listens m → (s.port m).rxBuffer = []) : s.nextFrame m = none := by
  by_cases l : s.Listens m
  · rw [nextFrame_of_listens l, h l]
    rfl
  · exact nextFrame_of_not l

theorem nextFrame_of_cons {m : MasterId} {c : Instr} {rest : List Instr} (l : s.Listens m)
    (e : (s.port m).rxBuffer = c :: rest) : s.nextFrame m = some c := by
  rw [nextFrame_of_listens l, e]
  rfl

/-- The first master link with a waiting frame passes its head inward (R145). -/
theorem passWaiting_of_master {m : MasterId} {c : Instr} {rest : List Instr} (l : s.Listens m)
    (e : (s.port m).rxBuffer = c :: rest) (first : ∀ j, j < m → s.Listens j → (s.port j).rxBuffer = []) :
    s.passWaiting = some ((s.modPort m fun p => { p with rxBuffer := rest }).passInward c) := by
  obtain ⟨before, after, split, low⟩ := allMasters_split m
  have none_before : ∀ j ∈ before, ((s.nextFrame j).map fun c => (s.popBuffer j).passInward c) = none := by
    intro j hj
    rw [nextFrame_of_empty (first j (low j hj)), Option.map_none]
  rw [passWaiting, split, List.findSome?_append, List.findSome?_eq_none_iff.mpr none_before, Option.none_or,
    List.findSome?_cons, nextFrame_of_cons l e, popBuffer_eq e]
  rfl

/-- With no frame on a master link it is the radio link's turn. -/
theorem passWaiting_of_radio (quiet : ∀ j, s.Listens j → (s.port j).rxBuffer = []) :
    s.passWaiting = s.nextRadioFrame.map fun c => s.popRadioBuffer.passInward c := by
  have none_master : ∀ j ∈ allMasters, ((s.nextFrame j).map fun c => (s.popBuffer j).passInward c) = none := by
    intro j _
    rw [nextFrame_of_empty (quiet j), Option.map_none]
  rw [passWaiting, List.findSome?_eq_none_iff.mpr none_master]

theorem nextRadioFrame_of_linked (l : s.radio.link ≠ .down) : s.nextRadioFrame = s.radio.rxBuffer.head? := by
  unfold nextRadioFrame
  split
  · contradiction
  all_goals rfl

theorem nextRadioFrame_of_empty (h : s.radio.link = .down ∨ s.radio.rxBuffer = []) : s.nextRadioFrame = none := by
  unfold nextRadioFrame
  split
  · rfl
  all_goals
    next l => simp [h.resolve_left (by simp [l])]

theorem tick_of_held (h : s.resetHeld = true) : s.tick = s := by simp [tick, h]

theorem tick_of_running (h : s.resetHeld = false) (range : s.epoch.timebase + 1 < 2 ^ 48) :
    s.tick = { s with epoch := { s.epoch with timebase := s.epoch.timebase + 1 } } := by
  have next : nextTime s.epoch.timebase = s.epoch.timebase + 1 := if_pos range
  simp [tick, h, modEpoch, next]

theorem step_of_due {c : Instr} (empty : s.pending = []) (due : s.dueEvent = some c) : step s = exec c s := by
  simp [step, empty, due]

theorem step_of_passWaiting {t : State} (empty : s.pending = []) (due : s.dueEvent = none)
    (pass : s.passWaiting = some t) : step s = .next t := by
  simp [step, empty, due, pass]

theorem step_of_idle (empty : s.pending = []) (due : s.dueEvent = none) (pass : s.passWaiting = none) :
    step s = .next s.tick := by
  simp [step, empty, due, pass]

end State

/-- Settles O2: the step by its three cases, and the frame that `passWaiting` takes. -/
theorem stepOnEmptyQueue : Obligations.StepOnEmptyQueue := by
  intro s
  refine ⟨fun empty => ⟨fun c due => State.step_of_due empty due, fun t due => State.step_of_passWaiting empty due,
    fun due pass held => ?_, fun due pass running range => ?_⟩, fun m c rest l e first =>
      State.passWaiting_of_master l e first, fun quiet => ⟨fun c rest l e => ?_, fun h => ?_⟩⟩
  · rw [State.step_of_idle empty due pass, State.tick_of_held held]
  · rw [State.step_of_idle empty due pass, State.tick_of_running running range]
  · rw [State.passWaiting_of_radio quiet, State.nextRadioFrame_of_linked l, State.popRadioBuffer_eq e, e]
    rfl
  · rw [State.passWaiting_of_radio quiet, State.nextRadioFrame_of_empty h]
    rfl

/-! ### With no event due -/

theorem dueCommand_of_dueOnEntries {now : Time} :
    ∀ {l : List Entry} {i : Nat}, dueOnEntries now i l = none → ∀ e ∈ l, ∃ j, e.dueCommand now j = none
  | [], _, _, _, h => nomatch h
  | e :: rest, i, due, x, hx => by
    rw [dueOnEntries] at due
    split at due
    · cases due
    · next none =>
      rcases List.mem_cons.mp hx with rfl | hx
      · exact ⟨i, none⟩
      · exact dueCommand_of_dueOnEntries due x hx

/-- A HELD or RECALLED grant whose deadline has come is due. -/
theorem Entry.ahead_of_none {now : Time} {i : Nat} {e : Entry} (due : e.dueCommand now i = none) {g : Grant}
    (grant : e.grant = some g) :
    (∀ d, g.phase = .held d → now < d) ∧ ∀ cause d k, g.phase = .recalled cause d k → now < d := by
  simp only [dueCommand, grant] at due
  refine ⟨fun d held => ?_, fun cause d k recalled => ?_⟩
  · simpa [held] using due
  · simpa [recalled] using due

theorem ahead_of_dueOnList {now : Time} {l : List WaitEntry} (due : dueOnList now l = none) :
    ∀ w ∈ l, now < w.deadline := by
  intro w hw
  have none := List.find?_eq_none.mp (Option.map_eq_none_iff.mp due) w hw
  simpa using none

theorem Port.ahead_of_none {now : Time} {m : MasterId} {p : Port} (due : p.dueCommand now m = none) :
    (∀ d, p.link = .up → p.silence = some d → now < d) ∧
    (∀ d, p.link = .stale → p.orphan = some (d, .one) → now < d) ∧
    ∀ d, p.link = .orphaned → p.orphan = some (d, .two) → now < d := by
  refine ⟨fun d l t => ?_, fun d l t => ?_, fun d l t => ?_⟩
  all_goals
    simp only [dueCommand, l, t] at due
    simpa using due

theorem RadioPort.ahead_of_none {now : Time} {r : RadioPort} (due : r.dueCommand now = none) (d : Time)
    (l : r.link = .up) (t : r.silence = some d) : now < d := by
  simp only [dueCommand, l, t] at due
  simpa using due

theorem EpochUnit.ahead_of_none {e : EpochUnit} (due : e.dueCommand = none) :
    (∀ d, e.state ≠ .follow → e.intervalTimer = some d → e.timebase < d) ∧
    ∀ d, e.state = .follow → e.lossTimer = some d → e.timebase < d := by
  refine ⟨fun d l t => ?_, fun d l t => ?_⟩
  · unfold dueCommand at due
    split at due
    · simpa [t] using due
    · simpa [t] using due
    · contradiction
  · simp only [dueCommand, l, t] at due
    simpa using due

/-- Settles O3: each part of `dueEvent` that yields nothing leaves the deadlines it looks at ahead. -/
theorem nothingOverdueWhenTimePasses : Obligations.NothingOverdueWhenTimePasses := by
  intro s empty due pass
  obtain ⟨buffers, radioBuffer⟩ := State.passWaiting_none pass
  have idle := State.step_of_idle empty due pass
  simp only [State.dueEvent, Option.or_eq_none_iff, Option.map_eq_none_iff, List.findSome?_eq_none_iff,
    List.find?_eq_none] at due
  obtain ⟨⟨⟨⟨overruns, entries⟩, eList⟩, p1Lists⟩, p2Lists, ports, radio, epoch⟩ := due
  have grants (i : GrantIndex) (g : Grant) (grant : (look s.table.entries i).grant = some g) :
      (∀ d, g.phase = .held d → s.now < d) ∧ ∀ cause d k, g.phase = .recalled cause d k → s.now < d := by
    obtain ⟨j, none⟩ := dueCommand_of_dueOnEntries entries (look s.table.entries i) (by simp [look])
    exact Entry.ahead_of_none none grant
  have ports (m : MasterId) := Port.ahead_of_none (ports m (mem_allMasters m))
  have epoch := EpochUnit.ahead_of_none epoch
  refine ⟨idle, buffers, radioBuffer, fun m => by simpa using overruns m (mem_allMasters m),
    fun i g d grant => (grants i g grant).1 d, fun i g cause d k grant => (grants i g grant).2 cause d k,
    ahead_of_dueOnList eList, fun m => ahead_of_dueOnList (p1Lists m (mem_allMasters m)),
    fun m => ahead_of_dueOnList (p2Lists m (mem_allMasters m)), fun m => (ports m).1, fun m => (ports m).2.1,
    fun m => (ports m).2.2, RadioPort.ahead_of_none radio, epoch.1, epoch.2⟩

end Sys2Proof.Machine
end

section
/-! Resets: every block at its reset values. -/

namespace Sys2Proof.Machine

/-- Every block of the state right after a reset is at its reset values. -/
theorem State.isReset_initial (cause : ResetCause) (straps : Straps) :
    (State.initial cause straps).IsReset cause straps where
  carriers _ := look_replicate _ _
  groups _ := look_replicate _ _
  masters _ := look_replicate _ _
  classes _ := look_replicate _ _
  thinRatio := rfl
  thinning m c := by simp [State.initial]
  entries _ := look_replicate _ _
  freeQueue := by
    rw [State.freeQueue_initial]
    exact ⟨List.length_finRange, fun i => by simp⟩
  tombstones _ := look_replicate _ _
  engine := rfl
  eList := rfl
  priorityLists _ := ⟨look_replicate _ _, look_replicate _ _⟩
  cases := ⟨fun _ => look_replicate _ _, rfl⟩
  shed _ := look_replicate _ _
  clock := ⟨rfl, rfl, rfl⟩
  epochState := ⟨rfl, rfl, rfl⟩
  load := ⟨rfl, rfl, rfl, rfl⟩
  thresholds := ⟨rfl, rfl, rfl⟩
  epochSettings := ⟨rfl, rfl⟩
  ports m := by
    rw [State.port_initial, Port.initial, Straps.right]
    rfl
  radio := rfl
  stats _ := look_replicate _ _
  cause := ⟨rfl, rfl⟩

/-- The reset line and the queue of commands are no block's. -/
theorem State.IsReset.congr {s : State} {cause : ResetCause} {straps : Straps} (h : s.IsReset cause straps) (held : Bool)
    (pending : List Instr) : ({ s with resetHeld := held, pending := pending } : State).IsReset cause straps :=
  { h with }

/-- Settles O4. -/
theorem powerOnAndPinReset : Obligations.PowerOnAndPinReset := by
  intro cfgr epm s
  refine ⟨⟨_, rfl, ?_, rfl, rfl⟩, ⟨_, rfl, ?_, rfl, rfl⟩, rfl⟩
  · exact (State.isReset_initial .powerOn ⟨cfgr, epm⟩).congr false s.pending
  · exact (State.isReset_initial .resetPin ⟨cfgr, epm⟩).congr true s.pending

/-- Settles O5: the facts of a reset at a power-on with every strap low. -/
theorem resetStateIsPowerOn : Obligations.ResetStateIsPowerOn := by
  have port (m : MasterId) : State.reset.port m = Port.initial (Straps.right ⟨0, false⟩ m) :=
    State.port_initial .powerOn ⟨0, false⟩ m
  refine ⟨State.isReset_initial _ _, rfl, rfl, fun m => ?_, ⟨Nat.zero_le _, Nat.zero_le _⟩,
    ⟨fun m => ⟨?_, fun _ => ?_⟩, Nat.zero_le _, fun _ => rfl⟩, ⟨fun m c hc => ?_, fun c hc => nomatch hc⟩,
    fun m => ⟨?_, fun _ => ?_⟩, State.storeBounded_of_empty rfl, State.tombstonesBounded_of_empty rfl,
    State.ageAgrees_initial, fun m => ?_, State.epochTimersAgree_initial _ _, State.freeQueueAgrees_initial _ _⟩
  · simp [port, Port.initial]
  · simp [State.framesWaiting, port, Port.initial]
  · simp [port, Port.initial]
  · simp [port, Port.initial] at hc
  · simp [port, Port.initial]
  · simp [port, Port.initial]
  · rw [port]
    exact ⟨rfl, rfl⟩

/-- A frame of a link that may write is passed inward after it has woken the link. -/
theorem exec_of_mayWrite {s : State} {m : MasterId} (h : s.MayWrite m) {c : Instr} (w : WellFormed c = true)
    (f : c.frameOn = some m) : exec c s = .next ((s.wake m).passInward c) := by
  rw [State.exec_frame w f, State.onFrame_of_serves h.1]

theorem State.MayWrite.right {s : State} {m : MasterId} (h : s.MayWrite m) :
    ((s.wake m).port m).configRight = true := by
  rw [State.configRight_wake]
  exact h.2

theorem State.serveDeviceClear_of_unlisted {s : State} {m : MasterId} (right : (s.port m).configRight = true)
    (tag : Half) {depth : Nat} (notState : depth ≠ 1) (notFull : depth ≠ 2) :
    s.serveDeviceClear m tag depth = s.offer m (plainAnswer tag .outOfRange) := by
  rw [State.serveDeviceClear, State.withRight_of_right right]
  · rfl
  · exact notState
  · exact notFull

/-- Settles O6. -/
theorem clearFullIsAPinReset : Obligations.ClearFullIsAPinReset := by
  intro m tag s may
  refine ⟨⟨(s.wake m).serveClearFull, ?_, ?_, rfl, rfl⟩, fun depth notState notFull => ?_⟩
  · rw [exec_of_mayWrite may rfl rfl]
    exact congrArg _ (State.withRight_of_right may.right tag _)
  · exact (State.isReset_initial .clearFull s.responder.straps).congr false s.pending
  · have frame : exec (.deviceClearUnknownDepth m tag depth) s =
        .next ((s.wake m).serveDeviceClear m tag depth.toNat) :=
      congrArg _ (State.onFrame_of_serves may.1 _ _)
    rw [frame, State.serveDeviceClear_of_unlisted may.right tag notState notFull]

end Sys2Proof.Machine
end

section
/-! Configuration: the right (R158), the table and the index (R159), and the writes of carriers (R21), masters (R160) and
settings (R37, R139, R156); CLEAR_FAULT (R155). -/

namespace Sys2Proof.Machine

/-- A frame of a link that serves it is passed inward after it has woken the link. -/
theorem exec_of_serves {s : State} {m : MasterId} (h : s.Serves m) {c : Instr} (w : WellFormed c = true)
    (f : c.frameOn = some m) : exec c s = .next ((s.wake m).passInward c) := by
  rw [State.exec_frame w f, State.onFrame_of_serves h]

/-- Settles O8: every frame that needs the right is served under `withRight`. -/
theorem noRightChangesNothing : Obligations.NoRightChangesNothing := by
  intro c m tag s w needs serves right
  obtain ⟨u, e, -⟩ := State.passInward_of_needsRight needs (s.wake m)
  rw [exec_of_serves serves w (frameOn_of_needsRight needs), e,
    State.withRight_of_not (by rwa [State.configRight_wake])]

/-- With the right, an index outside the table is answered OUT_OF_RANGE. -/
theorem State.passInward_of_outside {c : Instr} {m : MasterId} {tag : Half} {index : Byte} {size : Nat}
    (needs : c.needsRight = some (m, tag)) (names : c.tableIndex = some (index, size)) (outside : size ≤ index.toNat)
    {s : State} (right : (s.port m).configRight = true) : s.passInward c = s.offer m (plainAnswer tag .outOfRange) := by
  cases c
  case configCarrier | configGroup | configClass | configMaster | configThresholdSet | configFallPersistence |
    configEpochInterval | configThinRatio | configRadioSilencePeriod =>
    simp only [Instr.needsRight, Option.some.injEq, Prod.mk.injEq] at needs
    simp only [Instr.tableIndex, Option.some.injEq, Prod.mk.injEq] at names
    obtain ⟨rfl, rfl⟩ := needs
    obtain ⟨rfl, rfl⟩ := names
    exact withEntry_outside right _ outside _
  all_goals cases names

/-- Settles O9: the unknown table by its definition, an index outside its table by `withEntry_outside`. -/
theorem configNamesNoEntry : Obligations.ConfigNamesNoEntry := by
  intro c m tag s w needs may names
  rw [exec_of_mayWrite may w (frameOn_of_needsRight needs)]
  rcases names with ⟨table, index, rfl⟩ | ⟨index, size, names, outside⟩
  · exact congrArg _ (State.withRight_of_right may.right tag _)
  · rw [State.passInward_of_outside needs names outside may.right]

/-! ### Carriers -/

namespace State

/-- The derived quantities of the pool look at the pool, the table and the cases alone. -/
theorem unitsAt_congr {s t : State} (table : t.table = s.table) : t.unitsAt = s.unitsAt := by
  funext h
  simp only [unitsAt, grantAt, table]

theorem occupied_congr {s t : State} (pool : t.pool = s.pool) (table : t.table = s.table)
    (recallUnit : t.recallUnit = s.recallUnit) (c : CarrierId) : t.occupied c = s.occupied c := by
  simp only [occupied, earmarked, carrier, pool, recallUnit, unitsAt_congr table]

theorem room_congr {s t : State} (pool : t.pool = s.pool) (table : t.table = s.table)
    (recallUnit : t.recallUnit = s.recallUnit) (c : CarrierId) (l : Level) : t.room c l = s.room c l := by
  have occupied := occupied_congr pool table recallUnit c
  cases l <;> simp only [room, effective, carrier, pool, occupied]

/-- A carrier is targeted when a case names it. -/
theorem targeted_iff {s : State} {c : CarrierId} : s.targeted c = true ↔ ∃ k x, s.caseAt k = some x ∧ x.target = c := by
  simp only [targeted, List.any_eq_true]
  constructor
  · rintro ⟨x, hx, e⟩
    split at e
    · next x =>
      obtain ⟨k, hk, at_k⟩ := List.mem_iff_getElem.mp hx
      exact ⟨⟨k, by simpa using hk⟩, x, by simpa [caseAt, look] using at_k, of_decide_eq_true e⟩
    · cases e
  · rintro ⟨k, x, at_k, rfl⟩
    exact ⟨some x, by rw [← at_k]; simp [caseAt, look], by simp⟩

end State

theorem CarrierState.exists_code_eq {b : Byte} (h : b.toNat ≤ 2) : ∃ x : CarrierState, x.code = b := by
  have listed : b.toNat = 0 ∨ b.toNat = 1 ∨ b.toNat = 2 := by omega
  rcases listed with e | e | e
  · exact ⟨.off, BitVec.eq_of_toNat_eq e.symm⟩
  · exact ⟨.opened, BitVec.eq_of_toNat_eq e.symm⟩
  · exact ⟨.draining, BitVec.eq_of_toNat_eq e.symm⟩

theorem CarrierState.ofCode_of_unlisted {b : Byte} (h : 2 < b.toNat) : CarrierState.ofCode b = none := by
  unfold CarrierState.ofCode
  split <;> simp_all

namespace State

variable {s : State} {m : MasterId} {tag : Half} {c : CarrierId} {nominal guard : Half}

/-- R21 check 1: the code and the two numbers have their ranges. -/
theorem writeCarrier_of_outOfRange {state : Byte} (h : 2 < state.toNat ∨ 1023 < nominal.toNat ∨ 255 < guard.toNat) :
    s.writeCarrier m tag c state nominal guard = s.offer m (plainAnswer tag .outOfRange) := by
  unfold writeCarrier
  split
  · rfl
  · next st code =>
    refine if_pos (h.resolve_left fun above => ?_)
    rw [CarrierState.ofCode_of_unlisted above] at code
    cases code

/-- R21 checks 2 to 4. -/
theorem writeCarrier_of_conflict {new : CarrierState} (range : ¬(1023 < nominal.toNat ∨ 255 < guard.toNat))
    (h : nominal.toNat < guard.toNat ∨ nominal.toNat < s.occupied c ∨
      (new = .off ∧ ((s.carrier c).occupancy ≠ [] ∨ s.targeted c))) :
    s.writeCarrier m tag c new.code nominal guard = s.offer m (plainAnswer tag .configConflict) := by
  have range : ¬(Config.maxNominal < nominal.toNat ∨ Config.maxGuard < guard.toNat) := range
  simp only [writeCarrier, CarrierState.ofCode_code, if_neg range]
  split_ifs with guarded below off
  · rfl
  · rfl
  · rfl
  · exact absurd ((h.resolve_left guarded).resolve_left below) off

/-- An accepted write, its DONE, and the offer it leaves due. -/
theorem writeCarrier_of_accepted {new : CarrierState} (range : ¬(1023 < nominal.toNat ∨ 255 < guard.toNat))
    (h : ¬(nominal.toNat < guard.toNat ∨ nominal.toNat < s.occupied c ∨
      (new = .off ∧ ((s.carrier c).occupancy ≠ [] ∨ s.targeted c)))) :
    s.writeCarrier m tag c new.code nominal guard =
      ((((s.modCarrier c fun k => { k with state := new, nominal := nominal.toNat, guard := guard.toNat }).offer m
        (plainAnswer tag .done)).dueAfterWrite s c).finish) := by
  have range : ¬(Config.maxNominal < nominal.toNat ∨ Config.maxGuard < guard.toNat) := range
  simp only [not_or] at h
  obtain ⟨guarded, below, off⟩ := h
  simp only [writeCarrier, CarrierState.ofCode_code, if_neg range, if_neg guarded, if_neg below, if_neg off]
  rfl

/-- An offer changes nothing that the room of a carrier depends on. -/
@[simp] theorem room_offer (s : State) (m : MasterId) (f : OutFrame) (c : CarrierId) (l : Level) :
    (s.offer m f).room c l = s.room c l :=
  room_congr (pool_offer s m f) (table_offer s m f) (recallUnit_offer s m f) c l

@[simp] theorem carrier_offer (s : State) (m : MasterId) (f : OutFrame) (c : CarrierId) :
    (s.offer m f).carrier c = s.carrier c := by simp [carrier]

theorem addDue_eq (s : State) (c : CarrierId) :
    s.addDue c =
      { s with engine := { s.engine with due := if c ∈ s.engine.due then s.engine.due else s.engine.due ++ [c] } } := by
  by_cases h : c ∈ s.engine.due <;> simp [addDue, modEngine, h]

end State

/-- Settles O10: the checks in their order, and the gain that leaves the carrier due. -/
theorem carrierWrite : Obligations.CarrierWrite := by
  intro m tag c index state nominal guard s may names run outOfRange conflict
  have frame : run = .next ((s.wake m).writeCarrier m tag c state nominal guard) := by
    refine (exec_of_mayWrite may rfl rfl).trans (congrArg _ ?_)
    exact State.withEntry_of_right may.right tag c names _
  have conflict_iff {new : CarrierState} (code : new.code = state) :
      conflict ↔ nominal.toNat < guard.toNat ∨ nominal.toNat < (s.wake m).occupied c ∨
        (new = .off ∧ (((s.wake m).carrier c).occupancy ≠ [] ∨ (s.wake m).targeted c)) := by
    have off : state.toNat = 0 ↔ new = .off := by
      subst code
      cases new <;> decide
    rw [State.targeted_iff, ← off]
    rfl
  refine ⟨fun out => ?_, fun range clash => ?_, fun range free => ?_⟩
  · rw [frame, State.writeCarrier_of_outOfRange out]
  · obtain ⟨new, code⟩ := CarrierState.exists_code_eq (Nat.not_lt.mp fun h => range (.inl h))
    subst code
    rw [frame, State.writeCarrier_of_conflict (fun h => range (.inr h)) ((conflict_iff rfl).mp clash)]
  · intro new code written answered gains due
    have gains_iff : gains ↔ (answered.carrier c).state = .opened ∧
        (((s.wake m).carrier c).state ≠ .opened ∨ (s.wake m).room c .e < answered.room c .e ∨
          (s.wake m).room c .p1 < answered.room c .p1) := by
      simp only [gains, answered, State.carrier_offer, State.room_offer, written, State.carrier_modCarrier_same]
      rfl
    have accepted : run = .next ((answered.dueAfterWrite (s.wake m) c).finish) := by
      subst code
      rw [frame, State.writeCarrier_of_accepted (fun h => range (.inr h)) (mt (conflict_iff rfl).mpr free)]
    refine ⟨fun gain => ?_, fun noGain => ?_⟩
    · rw [accepted, State.dueAfterWrite, if_pos (gains_iff.mp gain), State.addDue_eq]
    · rw [accepted, State.dueAfterWrite, if_neg (mt gains_iff.mpr noGain)]

/-! ### Masters -/

theorem NoticeMode.ofCode_of_unlisted {b : Byte} (h : ¬(b.toNat = 1 ∨ b.toNat = 2)) : NoticeMode.ofCode b = none := by
  unfold NoticeMode.ofCode
  split <;> simp_all

theorem NoticeMode.exists_code_eq {b : Byte} (h : b.toNat = 1 ∨ b.toNat = 2) : ∃ x : NoticeMode, x.code = b := by
  rcases h with e | e
  · exact ⟨.full, BitVec.eq_of_toNat_eq e.symm⟩
  · exact ⟨.quiet, BitVec.eq_of_toNat_eq e.symm⟩

namespace State

theorem othersGuaranteed_eq (s : State) (j : MasterId) :
    s.othersGuaranteed j = (s.master 0).guaranteed + (s.master 1).guaranteed + (s.master 2).guaranteed +
      (s.master 3).guaranteed - (s.master j).guaranteed := by
  match j with
  | 0 => simp [othersGuaranteed, allMasters]; omega
  | 1 => simp [othersGuaranteed, allMasters]; omega
  | 2 => simp [othersGuaranteed, allMasters]; omega
  | 3 => simp [othersGuaranteed, allMasters]; omega

end State

/-- Settles O13: the ranges, the sum of the guaranteed values, and the write. -/
theorem masterWrite : Obligations.MasterWrite := by
  intro m j tag index guaranteed ceiling pendingLimit releaseDeadline silencePeriod orphanDelay noticeMode s may names
    run inRange others
  have frame : run = .next ((s.wake m).writeMaster m tag j
      { guaranteed := guaranteed.toNat, ceiling := ceiling.toNat, pendingLimit := pendingLimit.toNat,
        releaseDeadline := releaseDeadline.toNat, silencePeriod := silencePeriod.toNat,
        orphanDelay := orphanDelay.toNat, quotaExcess := false } noticeMode) := by
    refine (exec_of_mayWrite may rfl rfl).trans (congrArg _ ?_)
    exact State.withEntry_of_right may.right tag j names _
  have sum : (s.wake m).othersGuaranteed j = others := State.othersGuaranteed_eq (s.wake m) j
  refine ⟨fun out => ?_, fun range clash => ?_, fun range fits => ?_⟩
  · rw [frame, State.writeMaster]
    split
    · rfl
    · next n code =>
      refine congrArg _ (if_neg fun h => out ?_)
      obtain ⟨h1, h2, h3, h4, h5, h6, h7, h8, h9, h10⟩ := h
      refine ⟨h1, h2, h3, h4, h5, h6, h7, h8, h9, h10, not_not.mp fun unlisted => ?_⟩
      rw [NoticeMode.ofCode_of_unlisted unlisted] at code
      cases code
  all_goals
    obtain ⟨h1, h2, h3, h4, h5, h6, h7, h8, h9, h10, listed⟩ := range
    obtain ⟨n, rfl⟩ := NoticeMode.exists_code_eq listed
  · rw [frame, State.writeMaster]
    simp only [NoticeMode.ofCode_code]
    rw [if_pos ⟨h1, h2, h3, h4, h5, h6, h7, h8, h9, h10⟩, sum]
    exact congrArg _ (if_pos clash)
  · refine ⟨n, rfl, ?_⟩
    rw [frame, State.writeMaster]
    simp only [NoticeMode.ofCode_code]
    rw [if_pos ⟨h1, h2, h3, h4, h5, h6, h7, h8, h9, h10⟩, sum]
    exact congrArg _ (if_neg (Nat.not_lt.mpr fits))

/-! ### Settings -/

namespace State

variable {s : State} {m : MasterId} {tag : Half}

/-- A table of one setting has the index 0. -/
theorem withEntry_setting (right : (s.port m).configRight = true) (tag : Half) (low high v : Nat) (t : State) :
    s.withEntry m tag 1 0 (fun _ => s.writeSetting m tag low high v t) = s.writeSetting m tag low high v t :=
  withEntry_of_right (index := 0) right tag (0 : Fin 1) rfl fun _ => s.writeSetting m tag low high v t

theorem writeSetting_of_inRange {low high v : Nat} (h : low ≤ v ∧ v ≤ high) (t : State) :
    s.writeSetting m tag low high v t = t.offer m (plainAnswer tag .done) := if_pos h

theorem writeSetting_of_outside {low high v : Nat} (h : v < low ∨ high < v) (t : State) :
    s.writeSetting m tag low high v t = s.offer m (plainAnswer tag .outOfRange) := if_neg (by omega)

end State

/-- Settles O14: the threshold sets with both checks, and each setting with its range. -/
theorem settingWrites : Obligations.SettingWrites := by
  intro m tag s may
  refine ⟨?_, fun v => ?_, fun v => ?_, fun v => ?_, fun v => ?_⟩
  · intro i index ro rw fo fw names run inRange ordered
    have frame : run = .next ((s.wake m).writeThresholds m tag i ⟨ro.toNat, rw.toNat, fo.toNat, fw.toNat⟩) :=
      (exec_of_mayWrite may rfl rfl).trans (congrArg _ (State.withEntry_of_right may.right tag i names _))
    refine ⟨fun out => ?_, fun range swapped => ?_, fun range order => ?_⟩
    · exact frame.trans (congrArg _ (if_neg out))
    · exact frame.trans (congrArg _ ((if_pos range).trans (if_neg swapped)))
    · exact frame.trans (congrArg _ ((if_pos range).trans (if_pos order)))
  · have frame : exec (.configFallPersistence m tag 0 v) s = .next ((s.wake m).writeSetting m tag 1 15 v.toNat
        ((s.wake m).modEpoch fun e => { e with fallPersistence := v.toNat })) :=
      (exec_of_mayWrite may rfl rfl).trans (congrArg _ (State.withEntry_setting may.right tag _ _ _ _))
    refine ⟨fun h => ?_, fun h => ?_⟩
    · rw [frame, State.writeSetting_of_inRange h]
    · rw [frame, State.writeSetting_of_outside (by omega)]
  · have frame : exec (.configEpochInterval m tag 0 v) s = .next ((s.wake m).writeSetting m tag 100 5000 v.toNat
        ((s.wake m).modEpoch fun e => { e with epochInterval := v.toNat })) :=
      (exec_of_mayWrite may rfl rfl).trans (congrArg _ (State.withEntry_setting may.right tag _ _ _ _))
    refine ⟨fun h => ?_, fun h => ?_⟩
    · rw [frame, State.writeSetting_of_inRange h]
    · rw [frame, State.writeSetting_of_outside h]
  · have frame : exec (.configThinRatio m tag 0 v) s = .next ((s.wake m).writeSetting m tag 2 16 v.toNat
        { s.wake m with intake := { s.intake with thinRatio := v.toNat } }) :=
      (exec_of_mayWrite may rfl rfl).trans (congrArg _ (State.withEntry_setting may.right tag _ _ _ _))
    refine ⟨fun h => ?_, fun h => ?_⟩
    · rw [frame, State.writeSetting_of_inRange h]
    · rw [frame, State.writeSetting_of_outside h]
  · have frame : exec (.configRadioSilencePeriod m tag 0 v) s = .next ((s.wake m).writeSetting m tag 200 5000 v.toNat
        ((s.wake m).modRadio fun r => { r with silencePeriod := v.toNat })) :=
      (exec_of_mayWrite may rfl rfl).trans (congrArg _ (State.withEntry_setting may.right tag _ _ _ _))
    refine ⟨fun h => ?_, fun h => ?_⟩
    · rw [frame, State.writeSetting_of_inRange h]
    · rw [frame, State.writeSetting_of_outside h]

/-! ### Flags -/

/-- Settles O16: the flags left are the port's, but for those the frame names. -/
theorem clearFault : Obligations.ClearFault := by
  intro m tag flags s serves old left
  have flags_wake : ((s.wake m).port m).flags = old := by simp [State.wake, old]
  have same : (s.wake m).flagsLeft m (.ofBits flags) = left := by
    simp only [State.flagsLeft, flags_wake, FaultFlags.ofBits, left, Bool.not_and, Bool.not_not]
    rfl
  rw [exec_of_serves serves rfl rfl, ← same]
  rfl

end Sys2Proof.Machine
end

section
/-! Outbound queues (R152 to R154): an offer as a change of one port, the advisory notices, the radio queue (R157) and the
transmitters. -/

namespace Sys2Proof.Machine

/-- What an offer makes of a port, by its link state, its fill and the class of the frame (R152, R153). -/
def Port.afterOffer (p : Port) (f : OutFrame) : Port :=
  if p.overrun = true ∨ p.link = .down ∨ p.link = .suspended then p
  else if f.isAdvisory = true then
    if p.noticeMode = .full ∧ p.queue.length < 48 then { p with queue := p.queue ++ [f] } else p
  else if p.queue.length < 64 then { p with queue := p.queue ++ [f] }
  else if p.link = .orphaned then p
  else { p with overrun := true }

namespace Port

variable {p : Port} {f : OutFrame}

theorem afterOffer_of_closed (h : p.overrun = true ∨ p.link = .down ∨ p.link = .suspended) : p.afterOffer f = p :=
  if_pos h

theorem afterOffer_of_advisory (o : p.overrun = false) (l : p.link = .up ∨ p.link = .stale ∨ p.link = .orphaned)
    (a : f.isAdvisory = true) :
    p.afterOffer f = if p.noticeMode = .full ∧ p.queue.length < 48 then { p with queue := p.queue ++ [f] } else p := by
  rcases l with l | l | l <;> simp [afterOffer, o, l, a]

theorem afterOffer_of_orphaned (o : p.overrun = false) (l : p.link = .orphaned) (a : f.isAdvisory = false) :
    p.afterOffer f = if p.queue.length < 64 then { p with queue := p.queue ++ [f] } else p := by
  simp [afterOffer, o, l, a]

theorem afterOffer_of_listening (o : p.overrun = false) (l : p.link = .up ∨ p.link = .stale)
    (a : f.isAdvisory = false) :
    p.afterOffer f =
      if p.queue.length < 64 then { p with queue := p.queue ++ [f] } else { p with overrun := true } := by
  rcases l with l | l <;> simp [afterOffer, o, l, a]

/-- An open link with room takes an answer or an action notice. -/
theorem afterOffer_of_room (o : p.overrun = false) (l : p.link = .up ∨ p.link = .stale) (a : f.isAdvisory = false)
    (room : p.queue.length < 64) : p.afterOffer f = { p with queue := p.queue ++ [f] } := by
  rw [afterOffer_of_listening o l a, if_pos room]

/-- Every port state is closed to offers, or one of the three that may take them. -/
theorem open_of_not_closed (h : ¬(p.overrun = true ∨ p.link = .down ∨ p.link = .suspended)) :
    p.overrun = false ∧ (p.link = .up ∨ p.link = .stale ∨ p.link = .orphaned) := by
  push Not at h
  obtain ⟨o, down, suspended⟩ := h
  refine ⟨by simpa using o, ?_⟩
  cases l : p.link <;> simp_all

@[simp] theorem unqueued_afterOffer : (p.afterOffer f).unqueued = p.unqueued := by
  unfold afterOffer
  split_ifs <;> rfl

end Port

namespace State

/-- A change of a port that leaves it as it is changes nothing. -/
theorem modPort_of_eq {s : State} {m : MasterId} {f : Port → Port} (h : f (s.port m) = s.port m) : s.modPort m f = s := by
  unfold modPort
  rw [show f (look s.ports m) = look s.ports m from h, put_look]

/-- A change of a port depends on what it makes of that port alone. -/
theorem modPort_congr {s : State} {m : MasterId} {f g : Port → Port} (h : f (s.port m) = g (s.port m)) :
    s.modPort m f = s.modPort m g := by
  unfold modPort
  rw [show f (look s.ports m) = g (look s.ports m) from h]

/-- An offer changes the port alone, as `Port.afterOffer` says. -/
theorem offer_eq_modPort (s : State) (m : MasterId) (f : OutFrame) : s.offer m f = s.modPort m fun p => p.afterOffer f := by
  have kept (e : (s.port m).afterOffer f = s.port m) : s = s.modPort m fun p => p.afterOffer f :=
    (modPort_of_eq e).symm
  have changed {g : Port → Port} (e : (s.port m).afterOffer f = g (s.port m)) :
      s.modPort m g = s.modPort m fun p => p.afterOffer f := (modPort_congr e).symm
  by_cases closed : (s.port m).overrun = true ∨ (s.port m).link = .down ∨ (s.port m).link = .suspended
  · refine Eq.trans ?_ (kept (Port.afterOffer_of_closed closed))
    rw [offer]
    rcases closed with o | l | l
    · rw [if_pos o]
    all_goals simp only [l, ite_self]
  obtain ⟨o, l⟩ := Port.open_of_not_closed closed
  rw [offer, if_neg (by simp [o])]
  by_cases a : f.isAdvisory = true
  · have outcome := Port.afterOffer_of_advisory o l a
    by_cases takes : (s.port m).noticeMode = .full ∧ (s.port m).queue.length < 48
    · refine Eq.trans ?_ (changed (g := fun p => { p with queue := p.queue ++ [f] }) (outcome.trans (if_pos takes)))
      rcases l with l | l | l <;> simp only [l, a, if_true] <;> exact if_pos takes
    · refine Eq.trans ?_ (kept (outcome.trans (if_neg takes)))
      rcases l with l | l | l <;> simp only [l, a, if_true] <;> exact if_neg takes
  rw [Bool.not_eq_true] at a
  by_cases room : (s.port m).queue.length < 64
  · have joins : (s.port m).afterOffer f = { s.port m with queue := (s.port m).queue ++ [f] } := by
      rw [Port.afterOffer, if_neg closed, a, if_neg Bool.false_ne_true, if_pos room]
    refine Eq.trans ?_ (changed (g := fun p => { p with queue := p.queue ++ [f] }) joins)
    rcases l with l | l | l <;> simp only [l, a, Bool.false_eq_true, if_false] <;> exact if_pos room
  · rcases l with l | l | l
    case inr.inr =>
      refine Eq.trans ?_ (kept ((Port.afterOffer_of_orphaned o l a).trans (if_neg room)))
      simp only [l, a, Bool.false_eq_true, if_false]
      exact if_neg room
    case inl =>
      refine Eq.trans ?_ (changed (g := fun p => { p with overrun := true })
        ((Port.afterOffer_of_listening o (.inl l) a).trans (if_neg room)))
      simp only [l, a, Bool.false_eq_true, if_false]
      exact if_neg room
    case inr.inl =>
      refine Eq.trans ?_ (changed (g := fun p => { p with overrun := true })
        ((Port.afterOffer_of_listening o (.inr l) a).trans (if_neg room)))
      simp only [l, a, Bool.false_eq_true, if_false]
      exact if_neg room

/-- The port after an offer to it. -/
theorem port_offer_self (s : State) (m : MasterId) (f : OutFrame) : (s.offer m f).port m = (s.port m).afterOffer f := by
  rw [offer_eq_modPort, port_modPort_same]

/-- A link with room takes an answer or an action notice. -/
theorem port_offer_of_room {s : State} {m : MasterId} {f : OutFrame} (o : (s.port m).overrun = false)
    (l : (s.port m).link = .up ∨ (s.port m).link = .stale) (a : f.isAdvisory = false)
    (room : (s.port m).queue.length < 64) :
    (s.offer m f).port m = { s.port m with queue := (s.port m).queue ++ [f] } := by
  rw [port_offer_self, Port.afterOffer_of_room o l a room]

/-- Of the state an offer changes the ports alone. -/
theorem offer_eq_ports (s : State) (m : MasterId) (f : OutFrame) :
    s.offer m f = { s with ports := (s.offer m f).ports } := by
  rw [offer_eq_modPort]
  rfl

theorem offerAll_eq (s : State) (f : OutFrame) : s.offerAll f = (((s.offer 0 f).offer 1 f).offer 2 f).offer 3 f := rfl

/-- A notice to all ports reaches each port once. -/
theorem port_offerAll (s : State) (f : OutFrame) (m : MasterId) : (s.offerAll f).port m = (s.offer m f).port m := by
  rw [offerAll_eq]
  match m with
  | 0 =>
    rw [port_offer_ne _ (by decide), port_offer_ne _ (by decide), port_offer_ne _ (by decide)]
  | 1 =>
    rw [port_offer_ne _ (by decide), port_offer_ne _ (by decide), port_offer_self, port_offer_ne _ (by decide),
      port_offer_self]
  | 2 =>
    rw [port_offer_ne _ (by decide), port_offer_self, port_offer_ne _ (by decide), port_offer_ne _ (by decide),
      port_offer_self]
  | 3 =>
    rw [port_offer_self, port_offer_ne _ (by decide), port_offer_ne _ (by decide), port_offer_ne _ (by decide),
      port_offer_self]

theorem offerAll_eq_ports (s : State) (f : OutFrame) : s.offerAll f = { s with ports := (s.offerAll f).ports } := by
  simp only [offerAll_eq, offer_eq_modPort]
  rfl

/-- The oldest OCCUPANCY is the first of the queue. -/
theorem dropOldestOccupancy_append {before : List RadioFrame} (h : ∀ x ∈ before, x.isOccupancy = false) (n : Fin 64)
    (v : List (Nat × Nat)) (after : List RadioFrame) :
    dropOldestOccupancy (before ++ .occupancy n v :: after) = before ++ after := by
  induction before with
  | nil => rfl
  | cons f rest ih =>
    rw [List.forall_mem_cons] at h
    obtain ⟨first, others⟩ := h
    simp [dropOldestOccupancy, first, ih others]

/-- On an open radio link an OCCUPANCY joins the queue, in the place of the oldest when it is full. -/
theorem offerOccupancy_of_linked {s : State} (l : s.radio.link ≠ .down) (f : RadioFrame) :
    s.offerOccupancy f = s.modRadio fun r =>
      if r.queue.length < 8 then { r with queue := r.queue ++ [f] }
      else { r with queue := dropOldestOccupancy r.queue ++ [f] } := by
  unfold offerOccupancy
  split
  · contradiction
  all_goals rfl

end State

/-- Settles O47: `Port.afterOffer` by its cases, and the radio queue. -/
theorem offersToOutboundQueues : Obligations.OffersToOutboundQueues := by
  refine ⟨?_, fun f s => ⟨rfl, State.port_offerAll s f, State.offerAll_eq_ports s f⟩, ?_⟩
  · intro m f s p joins
    have ite {c : Prop} [Decidable c] {g h : Port → Port} (e : (s.port m).afterOffer f =
        if c then g (s.port m) else h (s.port m)) : s.offer m f = if c then s.modPort m g else s.modPort m h := by
      rw [State.offer_eq_modPort]
      split_ifs at e ⊢ <;> exact State.modPort_congr e
    have same : s.modPort m (fun p => p) = s := State.modPort_of_eq rfl
    refine ⟨fun closed => ?_, fun o l a => ?_, fun o l a => ?_, fun o l a => ?_⟩
    · rw [State.offer_eq_modPort, State.modPort_of_eq (Port.afterOffer_of_closed closed)]
    · have taken := ite (g := fun p => { p with queue := p.queue ++ [f] }) (h := fun p => p)
        (Port.afterOffer_of_advisory o l a)
      rwa [same] at taken
    · have taken := ite (g := fun p => { p with queue := p.queue ++ [f] }) (h := fun p => p)
        (Port.afterOffer_of_orphaned o l a)
      rwa [same] at taken
    · exact ite (g := fun p => { p with queue := p.queue ++ [f] }) (h := fun p => { p with overrun := true })
        (Port.afterOffer_of_listening o l a)
  · intro epoch values s f
    refine ⟨fun down => ?_, fun l room => ?_, fun l full before n v after queue first => ?_⟩
    · simp [State.offerOccupancy, down]
    · rw [State.offerOccupancy_of_linked l]
      simp only [State.modRadio, if_pos room]
    · rw [State.offerOccupancy_of_linked l]
      rw [queue] at full
      simp only [State.modRadio, queue, if_neg (Nat.not_lt.mpr full), State.dropOldestOccupancy_append first]

namespace State

variable {s : State} {m : MasterId}

theorem beginSend_of_busy (h : (s.port m).sending ≠ none ∨ (s.port m).queue = []) : s.beginSend m = s := by
  unfold beginSend
  split
  · next f rest idle queue => simp_all
  · rfl

/-- A RADIO_OPEN that finds no frame waiting opens the link. -/
theorem exec_radioOpen_of_empty (held : s.resetHeld = false) (h : s.radio.link = .down ∨ s.radio.rxBuffer = [])
    (tag : Half) : exec (.radioOpen tag) s = .next (s.openRadio tag) := by
  have opens : exec (.radioOpen tag) s = .next
      (if s.resetHeld then s
      else
        match s.radio.link with
        | .down => s.openRadio tag
        | .up | .stale => if s.radio.rxBuffer.isEmpty then s.openRadio tag else s.holdRadioOpen tag) := rfl
  rw [opens, held, if_neg Bool.false_ne_true]
  cases l : s.radio.link
  · rfl
  all_goals simp [h.resolve_left (by simp [l])]

end State

/-- Settles O48. -/
theorem transmittersAndRadio : Obligations.TransmittersAndRadio := by
  intro m tag s
  refine ⟨fun f rest idle queue => ?_, fun busy => congrArg _ (State.beginSend_of_busy busy), rfl, ?_,
    fun held h => State.exec_radioOpen_of_empty held h tag, fun held => ?_, rfl, rfl⟩
  · refine congrArg _ (?_ : s.beginSend m = _)
    simp [State.beginSend, idle, queue]
  · simp only [List.drop_one]
    rfl
  · exact congrArg _ (if_pos held)

end Sys2Proof.Machine
end

section
/-! CLEAR_STATE (R165): the suspensions served first, the traffic that goes, and the frames offered behind it. -/

namespace Sys2Proof.Machine

theorem Entry.cleared_of_free {e : Entry} (h : e.grant = none) : e.cleared = e := by simp only [cleared, h]

theorem Entry.cleared_of_used {e : Entry} {g : Grant} (h : e.grant = some g) :
    e.cleared = { gen := e.gen + 1, grant := none } := by simp only [cleared, h]

namespace State

variable {s : State} {m : MasterId}

/-- With no overrun awaiting there is no suspension to serve. -/
theorem serveSuspensions_of_none (h : ∀ j, (s.port j).overrun = false) : s.serveSuspensions = s := by
  have none : (allMasters.find? fun m => (s.port m).overrun) = none :=
    List.find?_eq_none.mpr fun j _ => by simp [h j]
  simp only [serveSuspensions, suspendOverrun, none]

theorem serveDeviceClear_state (right : (s.port m).configRight = true) (tag : Half) :
    s.serveDeviceClear m tag 1 = (s.serveSuspensions.clearTraffic.offer m (plainAnswer tag .done)).helloAll :=
  withRight_of_right right tag _

/-- HELLO to one link, when it is UP. -/
def helloTo (s : State) (m : MasterId) : State := if (s.port m).link = .up then s.offer m (s.hello m) else s

theorem helloAll_eq (s : State) : s.helloAll = allMasters.foldl helloTo s := rfl

theorem helloTo_eq_ports (s : State) (m : MasterId) : s.helloTo m = { s with ports := (s.helloTo m).ports } := by
  unfold helloTo
  split_ifs
  · exact offer_eq_ports _ _ _
  · rfl

theorem helloAll_eq_ports (s : State) : s.helloAll = { s with ports := s.helloAll.ports } := by
  have fold (l : List MasterId) (t : State) : l.foldl helloTo t = { t with ports := (l.foldl helloTo t).ports } := by
    induction l generalizing t with
    | nil => rfl
    | cons m rest ih =>
      rw [List.foldl_cons, ih, helloTo_eq_ports t m]
  exact fold allMasters s

theorem port_helloTo_ne {j : MasterId} (h : j ≠ m) : (s.helloTo m).port j = s.port j := by
  unfold helloTo
  split_ifs
  · exact port_offer_ne s h _
  · rfl

/-- A HELLO tells of its own port, of the reset cause and of the epoch. -/
theorem hello_congr {t : State} (port : t.port m = s.port m) (responder : t.responder = s.responder)
    (epoch : t.epoch = s.epoch) : t.hello m = s.hello m := by
  simp only [hello, port, responder, epoch]

/-- The port's own HELLO is the same when other links have been told before. -/
theorem port_helloTo_congr {t : State} (port : t.port m = s.port m) (responder : t.responder = s.responder)
    (epoch : t.epoch = s.epoch) : (t.helloTo m).port m = (s.helloTo m).port m := by
  have told := hello_congr port responder epoch
  unfold helloTo
  rw [port]
  split_ifs
  · rw [port_offer_self, port_offer_self, port, told]
  · exact port

/-- Every link is told once. -/
theorem port_helloAll (s : State) (m : MasterId) : s.helloAll.port m = (s.helloTo m).port m := by
  have later : ∀ (l : List MasterId) (t : State), m ∉ l → (l.foldl helloTo t).port m = t.port m := by
    intro l
    induction l with
    | nil => exact fun _ _ => rfl
    | cons j rest ih =>
      intro t h
      rw [List.mem_cons, not_or] at h
      rw [List.foldl_cons, ih _ h.2, port_helloTo_ne h.1]
  have fields : ∀ (l : List MasterId) (t : State), (l.foldl helloTo t).responder = t.responder ∧
      (l.foldl helloTo t).epoch = t.epoch := by
    intro l
    induction l with
    | nil => exact fun _ => ⟨rfl, rfl⟩
    | cons j rest ih =>
      intro t
      rw [List.foldl_cons, (ih _).1, (ih _).2, helloTo_eq_ports t j]
      exact ⟨rfl, rfl⟩
  obtain ⟨before, after, split, low⟩ := allMasters_split m
  have nodup : allMasters.Nodup := by decide
  rw [split, List.nodup_middle, List.nodup_cons, List.mem_append, not_or] at nodup
  obtain ⟨notBefore, notAfter⟩ := nodup.1
  rw [helloAll_eq, split, List.foldl_append, List.foldl_cons, later after _ notAfter]
  exact port_helloTo_congr (later before s notBefore) (fields before s).1 (fields before s).2

/-- The ports after a CLEAR_STATE from a link: its DONE and the HELLOs are offered. -/
def clearState (s : State) (m : MasterId) (tag : Half) : State :=
  (s.clearTraffic.offer m (plainAnswer tag .done)).helloAll

theorem clearState_eq_ports (s : State) (m : MasterId) (tag : Half) :
    (s.clearTraffic.offer m (plainAnswer tag .done)).helloAll =
      { s.clearTraffic with ports := (s.clearState m tag).ports } := by
  rw [clearState, helloAll_eq_ports, offer_eq_ports]

theorem entry_clearTraffic (s : State) (i : GrantIndex) :
    look s.clearTraffic.table.entries i = (look s.table.entries i).cleared := look_map _ _ _

theorem carrier_clearTraffic (s : State) (c : CarrierId) : s.clearTraffic.carrier c = (s.carrier c).cleared :=
  look_map _ _ _

theorem group_clearTraffic (s : State) (g : GroupId) : s.clearTraffic.group g = s.group g := rfl

theorem master_clearTraffic (s : State) (m : MasterId) :
    s.clearTraffic.master m = { s.master m with quotaExcess := false } := look_map _ _ _

theorem link_wake : ((s.wake m).port m).link = .up := by simp [wake]

/-- A frame's arrival keeps what the port has queued, what it tells of itself, and its overrun. -/
theorem port_wake (s : State) (m j : MasterId) :
    ((s.wake m).port j).queue = (s.port j).queue ∧ ((s.wake m).port j).overrun = (s.port j).overrun ∧
    ((s.wake m).port j).lastCause = (s.port j).lastCause ∧
    ((s.wake m).port j).suspendReason = (s.port j).suspendReason ∧
    ((s.wake m).port j).flags = (s.port j).flags ∧ ((s.wake m).port j).rxBuffer = (s.port j).rxBuffer := by
  by_cases e : j = m
  · subst e
    simp [wake]
  · rw [wake, port_modPort_ne _ e]
    exact ⟨rfl, rfl, rfl, rfl, rfl, rfl⟩

theorem unqueued_helloTo (s : State) (m j : MasterId) : ((s.helloTo m).port j).unqueued = (s.port j).unqueued := by
  unfold helloTo
  split_ifs
  · exact unqueued_offer _ _ _ _
  · rfl

/-- Each port keeps all but what waited in its receive buffer. -/
theorem unqueued_clearState (tag : Half) (j : MasterId) :
    (((s.wake m).clearState m tag).port j).unqueued =
      { ((s.wake m).port j).unqueued with rxBuffer := (s.port j).rxBuffer.filter Instr.isFrameFault } := by
  obtain ⟨-, -, -, -, -, buffer⟩ := s.port_wake m j
  rw [clearState, port_helloAll, unqueued_helloTo, unqueued_offer, port_clearTraffic, buffer]
  rfl

/-- A queue with room for both takes the DONE, when the port is the sender's, and the HELLO, when the link is UP. -/
theorem queue_clearState (tag : Half) {j : MasterId}
    (room : (s.port j).queue.length + 2 ≤ 64) :
    (((s.wake m).clearState m tag).port j).queue =
      (s.port j).queue ++ (if j = m then [plainAnswer tag .done] else []) ++
        if ((s.wake m).port j).link = .up then
          [.hello .clearState (s.port j).lastCause
            (if (s.port j).lastCause = some .afterSuspend then (s.port j).suspendReason else none)
            s.epoch.number .normal (s.port j).flags 1]
        else [] := by
  obtain ⟨queue, overrun, lastCause, suspendReason, flags, -⟩ := s.port_wake m j
  have cleared := port_clearTraffic (s.wake m) j
  have base : ((s.wake m).clearTraffic.port j).queue = (s.port j).queue := by rw [cleared, ← queue]
  have idle : ((s.wake m).clearTraffic.port j).overrun = false := by rw [cleared]
  have answered : (((s.wake m).clearTraffic.offer m (plainAnswer tag .done)).port j) =
      { (s.wake m).clearTraffic.port j with
        queue := (s.port j).queue ++ if j = m then [plainAnswer tag .done] else [] } := by
    by_cases e : j = m
    · subst e
      have up : ((s.wake j).clearTraffic.port j).link = .up := by
        rw [cleared]
        exact link_wake
      rw [port_offer_of_room idle (.inl up) rfl (by rw [base]; omega), if_pos rfl, base]
    · rw [port_offer_ne _ e, if_neg e, List.append_nil, ← base]
  have told : ((s.wake m).clearTraffic.offer m (plainAnswer tag .done)).hello j =
      .hello .clearState (s.port j).lastCause
        (if (s.port j).lastCause = some .afterSuspend then (s.port j).suspendReason else none)
        s.epoch.number .normal (s.port j).flags 1 := by
    simp only [hello, answered, responder_offer, epoch_offer, cleared, lastCause, suspendReason, flags]
    rfl
  have link : (((s.wake m).clearTraffic.offer m (plainAnswer tag .done)).port j).link = ((s.wake m).port j).link := by
    rw [answered, cleared]
  rw [clearState, port_helloAll, helloTo, link, told]
  generalize (s.wake m).clearTraffic.offer m (plainAnswer tag .done) = u at answered link
  have short : (u.port j).queue.length < 64 := by
    rw [answered]
    simp only [List.length_append]
    split_ifs <;> simp <;> omega
  by_cases up : ((s.wake m).port j).link = .up
  · rw [if_pos up, if_pos up, port_offer_of_room (by rw [answered]; exact idle) (.inl (link.trans up)) rfl short,
      answered]
  · rw [if_neg up, if_neg up, answered, List.append_nil]

end State

/-- Settles O7: `serveSuspensions_spec` first; then `clearTraffic` field by field, and of each port what the offers
add. -/
theorem clearStateClearsTraffic : Obligations.ClearStateClearsTraffic := by
  have frame {m : MasterId} {tag : Half} {s : State} (may : s.MayWrite m) : exec (.clearState m tag) s =
      .next (((s.wake m).serveSuspensions.clearTraffic.offer m (plainAnswer tag .done)).helloAll) := by
    rw [exec_of_mayWrite may rfl rfl]
    exact congrArg _ (State.serveDeviceClear_state may.right tag)
  have overrun_wake {s : State} {m j : MasterId} : ((s.wake m).port j).overrun = (s.port j).overrun :=
    (s.port_wake m j).2.1
  refine ⟨fun m tag s may => ?_, fun m tag s may quiet => ?_⟩
  · obtain ⟨served, suspended⟩ := (s.wake m).serveSuspensions_spec
    exact ⟨frame may, served, fun j pending => suspended j (overrun_wake.trans pending)⟩
  · have none : (s.wake m).serveSuspensions = s.wake m :=
      State.serveSuspensions_of_none fun j => overrun_wake.trans (quiet j)
    have ran := frame may (tag := tag)
    rw [none, State.clearState_eq_ports] at ran
    have port (j : MasterId) : look ((s.wake m).clearState m tag).ports j = ((s.wake m).clearState m tag).port j := rfl
    have unqueued := State.unqueued_clearState (s := s) (m := m) tag
    have queue := fun j => State.queue_clearState (s := s) (m := m) tag (j := j)
    simp only [← port] at unqueued queue
    clear port
    generalize ((s.wake m).clearState m tag).ports = ports at ran unqueued queue
    refine ⟨_, ran, fun c => State.carrier_clearTraffic (s.wake m) c, fun g => State.group_clearTraffic (s.wake m) g,
      fun j => State.master_clearTraffic (s.wake m) j, rfl, rfl, fun j c => ?_, fun i free => ?_,
      fun i used => ?_, rfl, fun j => look_replicate _ _, rfl, rfl, fun j => ⟨look_replicate _ _, look_replicate _ _⟩,
      fun k => look_replicate _ _, fun c => look_replicate _ _, rfl, rfl, rfl, fun j => look_replicate _ _, rfl, rfl, rfl,
      unqueued, queue⟩
    · simp [State.clearTraffic]
    · exact (State.entry_clearTraffic (s.wake m) i).trans (Entry.cleared_of_free free)
    · obtain ⟨g, grant⟩ := Option.isSome_iff_exists.mp used
      exact (State.entry_clearTraffic (s.wake m) i).trans (Entry.cleared_of_used grant)

end Sys2Proof.Machine
end

section
/-! Queries (R161, R162): the parts of a reply (R169), what a query adds to the queue, and the record each kind replies. -/

namespace Sys2Proof.Machine

/-- A table as the list of its entries in index order. -/
theorem toList_eq_map_look {α : Type} {n : Nat} (v : Vector α n) : v.toList = (List.finRange n).map (look v) :=
  List.ext_getElem (by simp) fun i _ _ => by simp [look]

/-! ### Parts -/

theorem ReplyField.width_le (f : ReplyField) : f.width ≤ 6 := by
  cases f <;> simp [width]

/-- The parts hold the fields in order. -/
theorem flatten_packFields : ∀ (fields : List ReplyField) (left : Nat) (part : List ReplyField),
    (packFields left part fields).flatten = part.reverse ++ fields
  | [], _, part => by simp [packFields]
  | f :: rest, left, part => by
    rw [packFields]
    split_ifs
    · simp [flatten_packFields rest]
    · simp [flatten_packFields rest]

/-- No part is wider than the room of a body. -/
theorem width_packFields : ∀ (fields : List ReplyField) (left : Nat) (part : List ReplyField),
    (part.map ReplyField.width).sum + left ≤ 53 → ∀ p ∈ packFields left part fields, (p.map ReplyField.width).sum ≤ 53
  | [], left, part, room, p, hp => by
    rw [packFields, List.mem_singleton] at hp
    subst hp
    rw [List.map_reverse, List.sum_reverse]
    omega
  | f :: rest, left, part, room, p, hp => by
    rw [packFields] at hp
    split_ifs at hp with fits
    · refine width_packFields rest _ _ ?_ p hp
      simp only [List.map_cons, List.sum_cons]
      omega
    · rcases List.mem_cons.mp hp with rfl | hp
      · rw [List.map_reverse, List.sum_reverse]
        omega
      · have := f.width_le
        refine width_packFields rest _ _ ?_ p hp
        simp only [List.map_cons, List.map_nil, List.sum_cons, List.sum_nil, replyRoom]
        omega

/-- A part begun holds a field; the first part of a reply with fields takes one. -/
theorem ne_nil_packFields : ∀ (fields : List ReplyField) (left : Nat) (part : List ReplyField),
    part ≠ [] ∨ (fields ≠ [] ∧ 6 ≤ left) → ∀ p ∈ packFields left part fields, p ≠ []
  | [], left, part, begun, p, hp => by
    rw [packFields, List.mem_singleton] at hp
    subst hp
    simpa using begun
  | f :: rest, left, part, begun, p, hp => by
    have := f.width_le
    rw [packFields] at hp
    split_ifs at hp with fits
    · exact ne_nil_packFields rest _ _ (.inl (by simp)) p hp
    · rcases List.mem_cons.mp hp with rfl | hp
      · simpa using begun.resolve_right fun h => fits (by omega)
      · exact ne_nil_packFields rest _ _ (.inl (by simp)) p hp

/-- The parts are offered in order, numbered on from `i`, the last marked. -/
theorem State.offerParts_eq (m : MasterId) (tag : Half) (kind : Byte) (index : Half) :
    ∀ (parts : List (List ReplyField)) (i : Nat) (s : State),
      State.offerParts m tag kind index i parts s =
        ((parts.zipIdx i).map fun x => OutFrame.queryReply tag kind index x.2 (x.2 + 1 == i + parts.length) x.1).foldl
          (fun t f => t.offer m f) s
  | [], _, _ => rfl
  | [p], i, s => by simp [State.offerParts]
  | p :: q :: rest, i, s => by
    have more : (i + 1 == i + (p :: q :: rest).length) = false := by simp
    have length : i + (p :: q :: rest).length = i + 1 + (q :: rest).length := by simp [Nat.add_assoc, Nat.add_comm]
    rw [State.offerParts, State.offerParts_eq m tag kind index (q :: rest) (i + 1), List.zipIdx_cons (a := p),
      List.map_cons, List.foldl_cons, more, length]

/-- Settles O20. -/
theorem replyParts : Obligations.ReplyParts := by
  intro m tag kind i fields s parts
  refine ⟨?_, ?_, fun some => ?_, ?_⟩
  · exact flatten_packFields fields 53 []
  · exact width_packFields fields 53 [] (Nat.le_refl _)
  · exact ne_nil_packFields fields 53 [] (.inr ⟨some, by omega⟩)
  · rw [State.reply, State.offerParts_eq, Nat.zero_add]
    rfl

/-! ### What a query adds -/

/-- Frames that are no advisory notices, under the tag, join port m's queue until an overrun is pending. -/
def AddsFrames (m : MasterId) (tag : Half) (s t : State) : Prop :=
  ∃ (frames : List OutFrame) (o : Bool), t = (s.modPort m fun p => { p with queue := p.queue ++ frames, overrun := o }) ∧
    (∀ f ∈ frames, f.isAdvisory = false ∧ f.tag = tag) ∧ ((s.port m).overrun = true → frames = [] ∧ o = true)

namespace AddsFrames

variable {m : MasterId} {tag : Half} {s t u : State}

theorem refl : AddsFrames m tag s s := by
  refine ⟨[], (s.port m).overrun, (State.modPort_of_eq ?_).symm, by simp, fun o => ⟨rfl, o⟩⟩
  simp

theorem trans (h : AddsFrames m tag s t) (k : AddsFrames m tag t u) : AddsFrames m tag s u := by
  obtain ⟨frames, o, rfl, plain, pending⟩ := h
  obtain ⟨frames', o', rfl, plain', pending'⟩ := k
  refine ⟨frames ++ frames', o', by simp [State.modPort], fun f hf => ?_, fun b => ?_⟩
  · exact (List.mem_append.mp hf).elim (plain f) (plain' f)
  · obtain ⟨rfl, rfl⟩ := pending b
    exact pending' (by simp)

theorem offer {f : OutFrame} (a : f.isAdvisory = false) (e : f.tag = tag) : AddsFrames m tag s (s.offer m f) := by
  rcases State.offer_cases s m f with h | ⟨-, o, h⟩ | h
  · rw [h]
    exact refl
  · refine ⟨[f], false, ?_, by simp [a, e], by simp [o]⟩
    rw [h]
    exact State.modPort_congr (by simp [o])
  · refine ⟨[], true, ?_, by simp, by simp⟩
    rw [h]
    exact State.modPort_congr (by simp)

theorem foldl {fs : List OutFrame} (h : ∀ f ∈ fs, f.isAdvisory = false ∧ f.tag = tag) :
    AddsFrames m tag s (fs.foldl (fun t f => t.offer m f) s) := by
  induction fs generalizing s with
  | nil => exact refl
  | cons f rest ih =>
    rw [List.forall_mem_cons] at h
    exact (offer h.1.1 h.1.2).trans (ih h.2)

theorem answer (o : AnswerCode) : AddsFrames m tag s (s.answer m tag o) := offer rfl rfl

theorem reply (kind : Byte) (index : Half) (fields : List ReplyField) :
    AddsFrames m tag s (s.reply m tag kind index fields) := by
  rw [State.reply, State.offerParts_eq]
  refine foldl fun f hf => ?_
  obtain ⟨x, -, rfl⟩ := List.mem_map.mp hf
  exact ⟨rfl, rfl⟩

theorem queryEntry (kind : Byte) (n : Nat) (index : Half) (fields : Fin n → List ReplyField) :
    AddsFrames m tag s (s.queryEntry m tag kind n index fields) := by
  unfold State.queryEntry
  split
  · exact reply _ _ _
  · exact answer _

theorem serveQuery (kind : Byte) (index : Half) : AddsFrames m tag s (s.serveQuery m tag kind index) := by
  unfold State.serveQuery
  split
  · exact queryEntry _ _ _ _
  · exact queryEntry _ _ _ _
  · exact queryEntry _ _ _ _
  · exact reply _ _ _
  · exact queryEntry _ _ _ _
  · exact reply _ _ _
  · unfold State.queryMaster
    split
    · exact answer _
    · split_ifs
      · exact reply _ _ _
      · exact answer _
  · unfold State.queryGrant
    split
    · exact offer rfl rfl
    · split_ifs
      · exact reply _ _ _
      · exact answer _
  · exact reply _ _ _
  · exact answer _

end AddsFrames

/-- A QUERY that is served as it arrives is served by its kind and index. -/
theorem exec_query {c : Instr} {m : MasterId} {tag : Half} {kind : Byte} {index : Half}
    (q : c.queryFields = some (m, tag, kind, index)) {s : State} (serves : s.Serves m) :
    exec c s = .next ((s.wake m).serveQuery m tag kind index) := by
  cases c
  case queryCarrier | queryGroup | queryClass | queryWaiting | queryCase | queryEpoch | queryMaster | queryGrant |
    queryGrantTable | queryUnknownKind =>
    simp only [Instr.queryFields, Option.some.injEq, Prod.mk.injEq] at q
    obtain ⟨rfl, rfl, rfl, rfl⟩ := q
    exact congrArg _ (State.onFrame_of_serves serves _ _)
  all_goals cases q

/-- Settles O19. -/
theorem queriesChangeNothing : Obligations.QueriesChangeNothing := by
  intro c m tag kind i s q serves
  obtain ⟨frames, o, e, plain, pending⟩ := AddsFrames.serveQuery (m := m) (tag := tag) (s := s.wake m) kind i
  refine ⟨frames, o, by rw [exec_query q serves, e], plain, fun b => pending ?_⟩
  rw [(s.port_wake m m).2.1]
  exact b

/-! ### The records -/

theorem byteField_code (b : Byte) : byteField b.toNat = .b1 b := by rw [byteField, BitVec.ofNat_toNat, BitVec.setWidth_eq]

namespace State

variable {s : State} {m : MasterId} {tag : Half}

theorem queryEntry_of_entry {kind : Byte} {n : Nat} {index : Half} (i : Fin n) (names : index.toNat = i.val)
    (fields : Fin n → List ReplyField) :
    s.queryEntry m tag kind n index fields = s.reply m tag kind index (fields i) := by
  rw [queryEntry, numberBelow_eq i names]

theorem queryEntry_of_outside {kind : Byte} {n : Nat} {index : Half} (outside : n ≤ index.toNat)
    (fields : Fin n → List ReplyField) :
    s.queryEntry m tag kind n index fields = s.offer m (plainAnswer tag .outOfRange) := by
  rw [queryEntry, numberBelow_none outside]
  rfl

theorem queryMaster_of_outside {kind : Byte} {index : Half} (outside : 4 ≤ index.toNat) :
    s.queryMaster m tag kind index = s.offer m (plainAnswer tag .outOfRange) := by
  rw [queryMaster, numberBelow_none outside]
  rfl

/-- R5: the earmarks summed case by case. -/
theorem earmarked_eq (s : State) (c : CarrierId) :
    s.earmarked c = earmarkOn c (s.caseAt 0) + earmarkOn c (s.caseAt 1) + earmarkOn c (s.caseAt 2) +
      earmarkOn c (s.caseAt 3) + earmarkOn c (s.caseAt 4) + earmarkOn c (s.caseAt 5) + earmarkOn c (s.caseAt 6) +
      earmarkOn c (s.caseAt 7) := by
  have cases : (List.finRange 8) = [0, 1, 2, 3, 4, 5, 6, 7] := by decide
  simp only [earmarked, toList_eq_map_look, cases, List.map_cons, List.map_nil, List.sum_cons, List.sum_nil, caseAt]
  omega

theorem serveQuery_unlisted {kind : Byte} (index : Half) (h : kind.toNat = 0 ∨ 9 < kind.toNat) :
    s.serveQuery m tag kind index = s.offer m (plainAnswer tag .outOfRange) := by
  unfold serveQuery
  split
  all_goals
    first
    | omega
    | rfl

theorem countInState_eq (s : State) {g : GrantState} {p : GrantPhase → Bool} (free : g ≠ .free)
    (h : ∀ x : GrantPhase, decide (x.shown = g) = p x) :
    s.countInState g =
      (s.table.entries.toList.filter fun e => match e.grant with | some g => p g.phase | none => false).length := by
  refine congrArg List.length (List.filter_congr fun e _ => ?_)
  cases e.grant with
  | none => exact decide_eq_false free
  | some x => exact h x.phase

end State

theorem allMasters_eq : allMasters = [0, 1, 2, 3] := rfl

namespace State

variable {s : State} {m : MasterId}

theorem recallPending_wake (s : State) (m : MasterId) (c : CarrierId) :
    (s.wake m).recallPending c = ((s.carrier c).occupancy.map s.pendingUnitsAt).sum := rfl

/-- R108: a FREE case gives its state alone. -/
theorem caseFields_of_free {k : CaseId} (h : s.caseAt k = none) : s.caseFields m k = [.b1 0] := by
  rw [caseFields, h]
  rfl

/-- R84. -/
theorem waitingFields_eq (s : State) (m : MasterId) :
    s.waitingFields m =
      [halfField s.storeCount, halfField s.priorityCount, halfField s.waiting.eList.length,
       halfField (look s.waiting.p1Lists 0).length, halfField (look s.waiting.p2Lists 0).length,
       halfField (look s.waiting.p1Lists 1).length, halfField (look s.waiting.p2Lists 1).length,
       halfField (look s.waiting.p1Lists 2).length, halfField (look s.waiting.p2Lists 2).length,
       halfField (look s.waiting.p1Lists 3).length, halfField (look s.waiting.p2Lists 3).length,
       byteField s.engine.p1Pointer.val, byteField s.engine.p2Pointer.val,
       halfField (s.waiting.eList.filter fun w => w.req.owner = m).length] := rfl

theorem thresholds_toList (s : State) :
    s.epoch.thresholds.toList = [look s.epoch.thresholds 0, look s.epoch.thresholds 1, look s.epoch.thresholds 2] := by
  have three : List.finRange 3 = [0, 1, 2] := by decide
  rw [toList_eq_map_look, three]
  rfl

end State

/-- Settles O17: each record field by field, and an index or a kind that names nothing. -/
theorem queriesReplyByKind : Obligations.QueriesReplyByKind := by
  intro m tag s serves w earmark pendingUnits right handleOf counters thresholds entriesIn
  refine ⟨fun i c names => ?carrier, fun i g names => ?group, fun i c names => ?serviceClass,
    fun i k names => ⟨fun free => ?freeCase, fun x collecting => ?collecting⟩, fun i => ?waiting, fun i => ?epoch,
    fun i => ?table, fun i => ⟨fun h => ?noCarrier, fun h => ?noGroup, fun h => ?noClass, fun h => ?noCase,
    fun h => ?noMaster⟩, fun kind i h => ?unlisted⟩
  case carrier =>
    rw [exec_query rfl serves]
    refine congrArg _ ((State.queryEntry_of_entry c names _).trans (congrArg _ ?_))
    have units : s.pendingUnitsAt = pendingUnits := by
      funext h
      simp only [pendingUnits, State.pendingUnitsAt]
      cases s.grantAt h with
      | none => rfl
      | some g => rcases e : g.phase with _ | _ | ⟨_, _, _ | _⟩ | _ <;> simp only [e]
    rw [State.carrierFields, State.recallPending_wake, units, State.earmarked_eq]
    refine congrArg (_ :: _ :: _ :: · :: _) ?_
    change halfOrAbsent (s.carrier c).reported = _
    rcases (s.carrier c).reported <;> rfl
  case group =>
    rw [exec_query rfl serves]
    refine congrArg _ ((State.queryEntry_of_entry g names _).trans (congrArg _ ?_))
    change [flagField (!(s.group g).members.isEmpty)] ++ (s.group g).members.map (fun c => byteField c.val) ++
      [byteOrAbsent ((s.group g).mode.map fun m => m.code.toNat)] = _
    have valid : flagField (!(s.group g).members.isEmpty) = .b1 (if (s.group g).members = [] then 0 else 1) := by
      rcases (s.group g).members <;> rfl
    have mode : byteOrAbsent ((s.group g).mode.map fun m => m.code.toNat) =
        match (s.group g).mode with | some y => .b1 y.code | none => .b1 0xFF := by
      rcases (s.group g).mode with _ | y
      · rfl
      · exact byteField_code y.code
    rw [valid, mode] <;> rfl
  case serviceClass =>
    rw [exec_query rfl serves]
    exact congrArg _ (State.queryEntry_of_entry c names _)
  case freeCase =>
    rw [exec_query rfl serves]
    refine congrArg _ ((State.queryEntry_of_entry k names _).trans (congrArg _ ?_))
    exact State.caseFields_of_free free
  case collecting =>
    rw [exec_query rfl serves]
    refine congrArg _ ((State.queryEntry_of_entry k names _).trans (congrArg _ ?_))
    have at_k : (s.wake m).caseAt k = some x := collecting
    have right_eq : ((s.wake m).port m).configRight = right := State.configRight_wake s m
    have tag_eq : (if right || decide (x.req.owner = m) then ReplyField.b2 x.req.tag else .b2 0xFFFF) =
        if right = true ∨ x.req.owner = m then .b2 x.req.tag else .b2 0xFFFF := by simp
    have handle_eq : (fun v : Victim => if right || (s.wake m).owns m v.handle then ReplyField.b2 v.handle.toBits else
        .b2 0xFFFF) = handleOf := by
      funext v
      rcases e : s.grantAt v.handle with _ | g <;> simp [handleOf, State.owns, e]
    simp only [State.caseFields, at_k, right_eq, tag_eq, handle_eq]
    rfl
  case waiting =>
    rw [exec_query rfl serves]
    refine congrArg _ (congrArg ((s.wake m).reply m tag 4 i) ?_)
    rw [State.waitingFields_eq, State.storeCount, priorityCount_eq]
    rfl
  case epoch =>
    rw [exec_query rfl serves]
    refine congrArg _ (congrArg ((s.wake m).reply m tag 6 i) ?_)
    rw [State.epochFields, State.thresholds_toList]
    rfl
  case table =>
    rw [exec_query rfl serves]
    refine congrArg _ (congrArg ((s.wake m).reply m tag 9 i) ?_)
    have count {g : GrantState} {p : GrantPhase → Bool} (free : g ≠ .free)
        (h : ∀ x : GrantPhase, decide (x.shown = g) = p x) : (s.wake m).countInState g = entriesIn p :=
      State.countInState_eq (s.wake m) free h
    rw [State.grantTableFields, count (by decide) (p := fun p => match p with | .held _ => true | _ => false),
      count (by decide) (p := fun p => match p with | .active => true | _ => false),
      count (by decide) (p := fun p => match p with | .recalled .. => true | _ => false),
      count (by decide) (p := fun p => match p with | .revoked _ => true | _ => false)]
    · rfl
    all_goals
      intro x
      cases x <;> rfl
  case noCarrier =>
    rw [exec_query rfl serves]
    exact congrArg _ (State.queryEntry_of_outside h _)
  case noGroup =>
    rw [exec_query rfl serves]
    exact congrArg _ (State.queryEntry_of_outside h _)
  case noClass =>
    rw [exec_query rfl serves]
    exact congrArg _ (State.queryEntry_of_outside h _)
  case noCase =>
    rw [exec_query rfl serves]
    exact congrArg _ (State.queryEntry_of_outside h _)
  case noMaster =>
    rw [exec_query rfl serves]
    exact congrArg _ (State.queryMaster_of_outside h)
  case unlisted =>
    rw [exec_query rfl serves, State.serveQuery_unlisted i h]

namespace State

variable {s : State} {m : MasterId} {tag : Half}

theorem queryMaster_of_reader {kind : Byte} {index : Half} {j : MasterId} (names : index.toNat = j.val)
    (h : (s.port m).configRight = true ∨ j = m) :
    s.queryMaster m tag kind index = s.reply m tag kind index (s.masterFields j) := by
  rw [queryMaster, numberBelow_eq j names]
  exact if_pos (by simpa using h)

theorem queryMaster_of_other {kind : Byte} {index : Half} {j : MasterId} (names : index.toNat = j.val)
    (right : ¬(s.port m).configRight = true) (other : j ≠ m) :
    s.queryMaster m tag kind index = s.offer m (plainAnswer tag .notOwner) := by
  rw [queryMaster, numberBelow_eq j names]
  exact if_neg (by simp [right, other])

theorem queryGrant_of_none {kind : Byte} {index : Half} (h : s.grantAt (.ofBits index) = none) :
    s.queryGrant m tag kind index = s.offer m (.answer tag .noSuchGrant (some (.ofBits index)) none none none) := by
  rw [queryGrant, h]
  rfl

theorem queryGrant_of_reader {kind : Byte} {index : Half} {g : Grant} (named : s.grantAt (.ofBits index) = some g)
    (h : (s.port m).configRight = true ∨ g.owner = m) :
    s.queryGrant m tag kind index = s.reply m tag kind index (g.fields (Handle.ofBits index).gen) := by
  rw [queryGrant, named]
  exact if_pos (by simpa using h)

theorem queryGrant_of_other {kind : Byte} {index : Half} {g : Grant} (named : s.grantAt (.ofBits index) = some g)
    (right : ¬(s.port m).configRight = true) (other : g.owner ≠ m) :
    s.queryGrant m tag kind index = s.offer m (plainAnswer tag .notOwner) := by
  rw [queryGrant, named]
  exact if_neg (by simp [right, other])

/-- R32: the open cases of a master, counted case by case. -/
theorem length_requestersOf (s : State) (m : MasterId) :
    (s.requestersOf m).length =
      ((List.finRange 8).filter fun k =>
        match s.caseAt k with | some x => decide (x.req.owner = m) | none => false).length := by
  rw [requestersOf, toList_eq_map_look]
  induction List.finRange 8 with
  | nil => rfl
  | cons k rest ih =>
    rw [List.map_cons, List.filterMap_cons, List.filter_cons]
    rcases e : look s.recallUnit.cases k with _ | x
    · simpa [caseAt, e] using ih
    · by_cases own : x.req.owner = m
      · simpa [caseAt, e, own] using ih
      · simpa [caseAt, e, own] using ih

end State

/-- Settles O18: who may read, and the two records. -/
theorem queryOwnerCheck : Obligations.QueryOwnerCheck := by
  intro m tag i s serves w right units pendingOf
  have right_wake : ((s.wake m).port m).configRight = (s.port m).configRight := State.configRight_wake s m
  refine ⟨fun j names => ⟨fun reader => ?record, fun noRight other => ?other⟩, fun unnamed => ?noGrant,
    fun g named => ⟨fun reader => ?grant, fun noRight other => ?otherGrant⟩⟩
  case record =>
    rw [exec_query rfl serves]
    refine congrArg _ ((State.queryMaster_of_reader names (by rwa [right_wake])).trans (congrArg _ ?_))
    have held : (s.wake m).nonEUnits j = units j false := by
      refine congrArg List.sum (List.map_congr_left fun x _ => ?_)
      rcases e : x.grant with _ | g
      · simp [Entry.unitsFor, e]
      · rcases p : g.phase <;> simp [Entry.unitsFor, e, p, GrantPhase.shown]
    have heldE : (s.wake m).eUnits j = units j true := by
      refine congrArg List.sum (List.map_congr_left fun x _ => ?_)
      rcases e : x.grant with _ | g
      · simp [Entry.unitsFor, e]
      · rcases p : g.phase <;> simp [Entry.unitsFor, e, p, GrantPhase.shown]
    have pending : (s.wake m).pendingCount j = pendingOf j := by
      rw [State.pendingCount, State.waitingOf, List.length_append, List.length_append, State.length_requestersOf]
      rfl
    have port : ((s.wake m).port j).noticeMode = (s.port j).noticeMode ∧
        ((s.wake m).port j).frameFaults = (s.port j).frameFaults ∧
        ((s.wake m).port j).configRight = (s.port j).configRight ∧
        ((s.wake m).port j).flags = (s.port j).flags := by
      by_cases e : j = m
      · subst e
        simp [State.wake]
      · rw [State.wake, State.port_modPort_ne _ e]
        exact ⟨rfl, rfl, rfl, rfl⟩
    obtain ⟨notice, faults, rightOf, flags⟩ := port
    rw [State.masterFields, held, heldE, pending, notice, faults, rightOf, flags]
    rfl
  case other =>
    rw [exec_query rfl serves]
    exact congrArg _ (State.queryMaster_of_other names (by rwa [right_wake]) other)
  case noGrant =>
    rw [exec_query rfl serves]
    exact congrArg _ (State.queryGrant_of_none unnamed)
  case grant =>
    rw [exec_query rfl serves]
    refine congrArg _ ((State.queryGrant_of_reader (s := s.wake m) named (by rwa [right_wake])).trans (congrArg _ ?_))
    rcases e : g.phase with d | _ | ⟨c, d, _ | k⟩ | c
    · rw [Grant.fields, e]
      rfl
    · rw [Grant.fields, e]
      rfl
    · simp only [Grant.fields, e, GrantPhase.recallCause, Option.map_some, byteOrAbsent, byteField_code]
      rfl
    · simp only [Grant.fields, e, GrantPhase.recallCause, Option.map_some, byteOrAbsent, byteField_code]
      rfl
    · simp only [Grant.fields, e, GrantPhase.revokeCause, Option.map_some, byteOrAbsent, byteField_code]
      rfl
  case otherGrant =>
    rw [exec_query rfl serves]
    exact congrArg _ (State.queryGrant_of_other named (by rwa [right_wake]) other)

end Sys2Proof.Machine
end

section
/-! Admission: the intake checks (R29 to R35), the decision (R46, R49), and joining a list (R73, R74). -/

namespace Sys2Proof.Machine

/-! ### The intake -/

theorem Gate.closedAt_iff (g : Gate) (l : Load) : g.closedAt l = true ↔ GateRefuses g l := by
  cases g <;> cases l <;> simp [closedAt, Load.rank, GateRefuses]

theorem AdmitMode.ofCode_of_unlisted {b : Byte} (h : ¬(b.toNat = 1 ∨ b.toNat = 2)) : AdmitMode.ofCode b = none := by
  unfold AdmitMode.ofCode
  split <;> simp_all

theorem AdmitMode.exists_code_eq {b : Byte} (h : b.toNat = 1 ∨ b.toNat = 2) : ∃ x : AdmitMode, x.code = b := by
  rcases h with e | e
  · exact ⟨.hold, BitVec.eq_of_toNat_eq e.symm⟩
  · exact ⟨.direct, BitVec.eq_of_toNat_eq e.symm⟩

namespace State

variable {s : State} {m : MasterId} {tag : Half}

/-- A waiting entry under a tag stands in one of the master's three lists. -/
theorem waitsUnder_iff : s.WaitsUnder m tag ↔ ∃ w ∈ s.waitingOf m, w.req.tag = tag := by
  simp only [WaitsUnder, waitingOf, List.mem_append, List.mem_filter, decide_eq_true_eq]
  constructor
  · rintro (⟨w, hw, own, e⟩ | ⟨w, hw, e⟩ | ⟨w, hw, e⟩)
    · exact ⟨w, .inl (.inl ⟨hw, own⟩), e⟩
    · exact ⟨w, .inl (.inr hw), e⟩
    · exact ⟨w, .inr hw, e⟩
  · rintro ⟨w, (⟨hw, own⟩ | hw) | hw, e⟩
    · exact .inl ⟨w, hw, own, e⟩
    · exact .inr (.inl ⟨w, hw, e⟩)
    · exact .inr (.inr ⟨w, hw, e⟩)

/-- A requester of the master is that of one of its cases. -/
theorem mem_requestersOf {r : Request} : r ∈ s.requestersOf m ↔ ∃ k x, s.caseAt k = some x ∧ x.req = r ∧ r.owner = m := by
  simp only [requestersOf, toList_eq_map_look, List.mem_filter, List.mem_filterMap, List.mem_map, decide_eq_true_eq,
    List.mem_finRange, true_and]
  constructor
  · rintro ⟨⟨o, ⟨k, rfl⟩, e⟩, own⟩
    obtain ⟨x, at_k, rfl⟩ := Option.map_eq_some_iff.mp e
    exact ⟨k, x, at_k, rfl, own⟩
  · rintro ⟨k, x, at_k, rfl, own⟩
    exact ⟨⟨_, ⟨k, rfl⟩, Option.map_eq_some_iff.mpr ⟨x, at_k, rfl⟩⟩, own⟩

/-- R29 check 4. -/
theorem tagPending_iff : s.tagPending m tag = true ↔ s.WaitsUnder m tag ∨ ∃ k, s.CaseUnder m tag k := by
  simp only [tagPending, Bool.or_eq_true, List.any_eq_true, decide_eq_true_eq, waitsUnder_iff, mem_requestersOf, CaseUnder]
  refine or_congr_right ⟨?_, ?_⟩
  · rintro ⟨r, ⟨k, x, at_k, rfl, own⟩, e⟩
    exact ⟨k, x, at_k, own, e⟩
  · rintro ⟨k, x, at_k, own, e⟩
    exact ⟨x.req, ⟨k, x, at_k, rfl, own⟩, e⟩

theorem classOf_of_outside {code : Byte} (h : 63 < code.toNat) : s.classOf code = none := by
  rw [classOf, numberBelow_none h]

theorem classOf_of_invalid {code : Byte} {c : Fin 64} (names : code.toNat = c.val)
    (h : (look s.intake.classes c).valid = false) : s.classOf code = none := by
  simp only [classOf, numberBelow_eq c names, h, Bool.false_eq_true, if_false]

theorem classOf_of_valid {code : Byte} {c : Fin 64} (names : code.toNat = c.val)
    (h : (look s.intake.classes c).valid = true) : s.classOf code = some (c, look s.intake.classes c) := by
  simp only [classOf, numberBelow_eq c names, h, if_true]

theorem refuse_eq (s : State) (m : MasterId) (tag : Half) (o : AnswerCode) :
    s.refuse m tag o = (s.offer m (plainAnswer tag o)).countRefused m := rfl

theorem serveAdmit_of_unmapped {code : Byte} (h : s.classOf code = none) (units mode : Byte) :
    s.serveAdmit m tag code units mode = s.refuse m tag .unmapped := by
  rw [serveAdmit, h]

variable {code units mode : Byte} {c : Fin 64} {k : ServiceClass}

theorem serveAdmit_of_excess (h : s.classOf code = some (c, k)) (excess : ¬(1 ≤ units.toNat ∧ units.toNat ≤ k.maxUnits)) :
    s.serveAdmit m tag code units mode = (s.reportArrival k.level).refuse m tag .excessUnits := by
  simp only [serveAdmit, h]
  exact if_pos (by omega)

theorem serveAdmit_of_unknownMode (h : s.classOf code = some (c, k)) (fits : 1 ≤ units.toNat ∧ units.toNat ≤ k.maxUnits)
    (unknown : ¬(mode.toNat = 1 ∨ mode.toNat = 2)) :
    s.serveAdmit m tag code units mode = (s.reportArrival k.level).refuse m tag .outOfRange := by
  simp only [serveAdmit, h, AdmitMode.ofCode_of_unlisted unknown]
  exact if_neg (by omega)

/-- Checks 1 to 3 passed. -/
theorem serveAdmit_of_known (h : s.classOf code = some (c, k)) (fits : 1 ≤ units.toNat ∧ units.toNat ≤ k.maxUnits)
    (x : AdmitMode) :
    s.serveAdmit m tag code units x.code = (s.reportArrival k.level).intakePending m tag c k units.toNat x := by
  simp only [serveAdmit, h, AdmitMode.ofCode_code]
  exact if_neg (by omega)

/-- Checks 4 to 6 passed. -/
theorem intakePending_of_passed {u : Nat} {x : AdmitMode} (free : ¬s.tagPending m tag = true)
    (room : ¬(s.master m).pendingLimit ≤ s.pendingCount m) (gate : ¬k.gate.closedAt s.epoch.level = true) :
    s.intakePending m tag c k u x =
      if s.epoch.level = .critical ∧ k.thin = true then
        if s.thinningOf m c = 0 then (s.stepThinning m c).handOn m tag c k u x
        else (s.stepThinning m c).refuse m tag .thinned
      else s.handOn m tag c k u x := by
  rw [intakePending, if_neg free, if_neg room, if_neg gate]

end State

/-- Settles O21: the counts, then the checks in their order. -/
theorem intakeRefusals : Obligations.IntakeRefusals := by
  refine ⟨fun m s => ?_, fun l s => ?_, fun m tag code units mode s serves => ?_⟩
  · exact ⟨(look s.responder.stats m).refused + 1, BitVec.toNat_add _ _, rfl⟩
  · cases l <;> exact ⟨rfl, rfl⟩
  · intro run w
    have frame : run = .next (w.serveAdmit m tag code units mode) := exec_of_serves serves rfl rfl
    refine ⟨fun outside => ?_, ?_⟩
    · rw [frame, State.serveAdmit_of_unmapped (State.classOf_of_outside outside), State.refuse_eq]
    · intro c names k r fits modeKnown duplicate full
      have duplicate_iff : r.tagPending m tag = true ↔ duplicate := State.tagPending_iff (s := s)
      have valid_class (valid : k.valid = true) : w.classOf code = some (c, k) := State.classOf_of_valid names valid
      refine ⟨fun invalid => ?_, fun valid excess => ?_, fun valid fit unknown => ?_, fun valid fit known twice => ?_,
        fun valid fit known once most => ?_, fun valid fit known once room closed => ?_⟩
      · rw [frame, State.serveAdmit_of_unmapped (State.classOf_of_invalid (s := w) names invalid), State.refuse_eq]
      · rw [frame, State.serveAdmit_of_excess (valid_class valid) excess, State.refuse_eq]
      · rw [frame, State.serveAdmit_of_unknownMode (valid_class valid) fit unknown, State.refuse_eq]
      all_goals
        obtain ⟨x, rfl⟩ := AdmitMode.exists_code_eq known
        rw [frame, State.serveAdmit_of_known (valid_class valid) fit, ← State.refuse_eq]
        refine congrArg _ ?_
      · exact if_pos (duplicate_iff.mpr twice)
      · exact (if_neg (mt duplicate_iff.mp once)).trans (if_pos most)
      · exact (if_neg (mt duplicate_iff.mp once)).trans ((if_neg room).trans (if_pos ((Gate.closedAt_iff _ _).mpr closed)))

/-- Settles O22. -/
theorem passedRequestIsDecided : Obligations.PassedRequestIsDecided := by
  intro m tag code units mode c x s serves names known k w old stepped r run valid low high notWaiting noCase room gate
  subst known
  have duplicate_iff : w.tagPending m tag = true ↔ s.WaitsUnder m tag ∨ ∃ j, s.CaseUnder m tag j :=
    State.tagPending_iff (s := s)
  have valid_class : (s.wake m).classOf code = some (c, k) := State.classOf_of_valid names valid
  have frame : run = .next (w.intakePending m tag c k units.toNat x) := by
    rw [← State.serveAdmit_of_known valid_class ⟨low, high⟩]
    exact exec_of_serves serves rfl rfl
  have passed := State.intakePending_of_passed (s := w) (m := m) (tag := tag) (c := c) (k := k) (u := units.toNat)
    (x := x) (mt duplicate_iff.mp (not_or.mpr ⟨notWaiting, noCase⟩)) (Nat.not_le.mpr room)
    (mt (Gate.closedAt_iff _ _).mp gate)
  rw [frame, passed]
  refine ⟨fun critical thin later => congrArg _ ?_, fun critical thin first => congrArg _ ?_, fun spared => congrArg _ ?_⟩
  · exact (if_pos ⟨critical, thin⟩).trans (if_neg later)
  · exact (if_pos ⟨critical, thin⟩).trans (if_pos first)
  · refine if_neg fun h => ?_
    obtain ⟨critical, thin⟩ := h
    rcases spared with l | t
    · exact l critical
    · rw [t] at thin
      cases thin

/-! ### The decision -/

namespace State

variable {s : State} {r : Request}

theorem failsCeiling_iff : s.failsCeiling r = true ↔
    r.level ≠ .e ∧ (s.master r.owner).ceiling < s.nonEUnits r.owner + r.units := by
  rw [failsCeiling, Bool.and_eq_true, decide_eq_true_iff, decide_eq_true_iff]

/-- R45. -/
theorem tableHasRoom_iff (s : State) (l : Level) :
    s.tableHasRoom l = true ↔ ¬s.table.freeQueue.length < (if l = .e then 1 else 33) := by
  have reserve : Config.freeEntriesForPriority = 33 := rfl
  cases l
  case e =>
    rw [tableHasRoom, decide_eq_true_iff, if_pos rfl]
    omega
  all_goals
    rw [tableHasRoom, decide_eq_true_iff, if_neg (by decide)]
    omega

/-- R71. -/
theorem storeHasSpace_iff (s : State) (l : Level) :
    s.storeHasSpace l = true ↔ s.storeCount < 160 ∧ l ≠ .p3 ∧ (l ≠ .e → s.priorityCount < 128) := by
  cases l <;> simp only [storeHasSpace, Bool.and_eq_true, decide_eq_true_eq] <;>
    simp [Config.storeSize, Config.priorityStoreSize]

theorem decideAdmission_of_ceiling (h : s.failsCeiling r = true) :
    s.decideAdmission r = s.refuse r.owner r.tag .quotaCeiling := if_pos h

theorem decideAdmission_of_room (passes : ¬s.failsCeiling r = true) (room : s.tableHasRoom r.level = true) :
    s.decideAdmission r = s.placeRequest r := (if_neg passes).trans (if_pos room)

theorem decideAdmission_of_fullE (passes : ¬s.failsCeiling r = true) (full : ¬s.tableHasRoom r.level = true)
    (e : r.level = .e) : s.decideAdmission r = s.waitOrRefuse r :=
  (if_neg passes).trans ((if_neg full).trans (if_pos e))

theorem decideAdmission_of_full (passes : ¬s.failsCeiling r = true) (full : ¬s.tableHasRoom r.level = true)
    (e : r.level ≠ .e) : s.decideAdmission r = s.refuse r.owner r.tag .tableFull :=
  (if_neg passes).trans ((if_neg full).trans (if_neg e))

theorem placeRequest_of_carrier {c : CarrierId} (h : s.chooseCarrier r.group r.level r.units = some c) :
    s.placeRequest r = s.createGrant r c := by
  rw [placeRequest, h]

theorem placeRequest_of_case {t : State} (h : s.chooseCarrier r.group r.level r.units = none)
    (attempt : (if r.preempt = true then s.caseAttempt r else none) = some t) : s.placeRequest r = t := by
  rw [placeRequest, h]
  simp only [attempt]

theorem placeRequest_of_none (h : s.chooseCarrier r.group r.level r.units = none)
    (attempt : (if r.preempt = true then s.caseAttempt r else none) = none) : s.placeRequest r = s.waitOrRefuse r := by
  rw [placeRequest, h]
  simp only [attempt]

end State

/-- Settles O23: the ceiling, the table, the carrier, the case, the list. -/
theorem admissionDecisionSteps : Obligations.AdmissionDecisionSteps := by
  intro r s refused ceilingFails tableFull space attempt ends
  have passes (h : ¬ceilingFails) : ¬s.failsCeiling r = true := mt State.failsCeiling_iff.mp h
  have full (h : tableFull) : ¬s.tableHasRoom r.level = true := fun room => (State.tableHasRoom_iff s r.level).mp room h
  have waits : ends (s.waitOrRefuse r) := by
    refine ⟨fun none => if_pos none, fun some fits => ?_, fun some noSpace => ?_⟩
    · exact (if_neg (Nat.pos_iff_ne_zero.mp some)).trans (if_pos ((State.storeHasSpace_iff s r.level).mpr fits))
    · exact (if_neg (Nat.pos_iff_ne_zero.mp some)).trans (if_neg (mt (State.storeHasSpace_iff s r.level).mp noSpace))
  refine ⟨fun fails => ?_, fun pass e t => ?_, fun pass e t => ?_, fun pass t => ?_⟩
  · exact State.decideAdmission_of_ceiling (State.failsCeiling_iff.mpr fails)
  · exact State.decideAdmission_of_full (passes pass) (full t) e
  · rw [State.decideAdmission_of_fullE (passes pass) (full t) e]
    exact waits
  · rw [State.decideAdmission_of_room (passes pass) ((State.tableHasRoom_iff s r.level).mpr t)]
    refine ⟨fun c chosen => State.placeRequest_of_carrier chosen, fun none => ⟨fun t found => ?_, fun fails => ?_⟩⟩
    · exact State.placeRequest_of_case none found
    · rw [State.placeRequest_of_none none fails]
      exact waits

/-! ### Lists -/

/-- An E entry queued is reported whether the port is told before or after. -/
theorem State.reportQueued_offer (s : State) (m : MasterId) (f : OutFrame) (l : Level) :
    (s.offer m f).reportQueued l = (s.reportQueued l).offer m f := by
  rw [offer_eq_modPort, offer_eq_modPort]
  cases l <;> rfl

/-- Settles O24: the entry joins, the report is made, and QUEUED is offered. -/
theorem joiningAList : Obligations.JoiningAList := by
  intro r s notP3 entry join u joined
  have joins : u = ((s.modList r.level r.owner join).reportQueued r.level).offer r.owner (.queued r.tag .waiting) := by
    rw [← State.reportQueued_offer]
    rcases joined with ⟨rfl, rfl⟩ | ⟨rfl, rfl⟩ <;> rfl
  refine ⟨_, joins, fun e => ?_, fun e => ?_, fun e => ?_⟩ <;> rw [e] <;> rfl

end Sys2Proof.Machine
end

section
/-! Grants: handles (R44), the room of a carrier (R3, R5, R6), creation (R47), the handle and owner checks (R52), RELEASE
(R54), and what becomes of an entry that is freed (R58) or of a grant that is revoked (R57, R60). -/

namespace Sys2Proof.Machine

/-! ### Handles -/

theorem Handle.toNat_toBits (h : Handle) : h.toBits.toNat = h.gen.val * 1024 + h.index.val := by
  have := h.gen.isLt
  have := h.index.isLt
  rw [toBits, BitVec.toNat_ofNat]
  omega

theorem Handle.val_ofBits (w : Half) :
    (Handle.ofBits w).gen.val = w.toNat / 1024 ∧ (Handle.ofBits w).index.val = w.toNat % 1024 := by
  have := w.isLt
  constructor
  · change (w.extractLsb' 10 6).toNat = _
    rw [BitVec.extractLsb'_toNat, Nat.shiftRight_eq_div_pow]
    omega
  · change (w.extractLsb' 0 10).toNat = _
    rw [BitVec.extractLsb'_toNat, Nat.shiftRight_zero]

theorem Handle.ofBits_toBits (h : Handle) : Handle.ofBits h.toBits = h := by
  obtain ⟨gen, index⟩ := Handle.val_ofBits h.toBits
  rw [Handle.toNat_toBits] at gen index
  have := h.index.isLt
  have gen_eq : (Handle.ofBits h.toBits).gen = h.gen := Fin.ext (by omega)
  have index_eq : (Handle.ofBits h.toBits).index = h.index := Fin.ext (by omega)
  rw [show Handle.ofBits h.toBits = ⟨(Handle.ofBits h.toBits).gen, (Handle.ofBits h.toBits).index⟩ from rfl, gen_eq,
    index_eq]

theorem Handle.toBits_ofBits (w : Half) : (Handle.ofBits w).toBits = w := by
  obtain ⟨gen, index⟩ := Handle.val_ofBits w
  refine BitVec.eq_of_toNat_eq ?_
  rw [Handle.toNat_toBits, gen, index]
  omega

theorem State.grantAt_eq_some_iff {s : State} {h : Handle} {g : Grant} :
    s.grantAt h = some g ↔ (look s.table.entries h.index).gen = h.gen ∧ (look s.table.entries h.index).grant = some g := by
  simp only [State.grantAt]
  split_ifs with gen
  · simp [gen]
  · simp [gen]

/-- Settles O28. -/
theorem handlesNameEntries : Obligations.HandlesNameEntries :=
  ⟨fun h => ⟨h.toNat_toBits, h.ofBits_toBits⟩, Handle.toBits_ofBits, fun _ _ _ => State.grantAt_eq_some_iff⟩

/-! ### The room of a carrier -/

/-- Settles O26. -/
theorem roomOfACarrier : Obligations.RoomOfACarrier := by
  intro c s k units earmark
  have room_le (l : Level) : s.room c l ≤ s.effective c - s.occupied c := by
    cases l
    case e => exact Nat.le_refl _
    all_goals exact Nat.sub_le _ _
  refine ⟨fun none => ?_, fun v some => ?_, ?_, rfl, fun l notE => ?_, fun most l => ?_⟩
  · rw [State.effective, none]
  · rw [State.effective, some]
  · rw [State.occupied, State.earmarked_eq]
    rfl
  · cases l
    case e => exact absurd rfl notE
    all_goals exact Nat.sub_sub _ _ _
  · have := room_le l
    omega

/-! ### Creation -/

namespace State

variable {s : State}

theorem startPhase_eq (s : State) (r : Request) :
    s.startPhase r = if r.mode = .hold then
      .held (s.now + if r.level ≠ .e ∧ s.epoch.level = .critical then r.holdLimit / 2 else r.holdLimit) else .active := by
  unfold startPhase
  cases r.mode <;> rfl

theorem shown_startPhase (s : State) (r : Request) :
    (s.startPhase r).shown = if r.mode = .hold then .held else .active := by
  unfold startPhase
  cases r.mode <;> rfl

/-- Creation takes the head of the free queue. -/
theorem createGrant_of_cons {i : GrantIndex} {rest : List GrantIndex} (queue : s.table.freeQueue = i :: rest) (r : Request)
    (c : CarrierId) :
    s.createGrant r c =
      ((((s.setGrant ⟨(look s.table.entries i).gen, i⟩
          ⟨r.owner, r.tag, r.code, r.level, c, r.units, s.startPhase r⟩).setFreeQueue rest).modCarrier c fun k =>
        { k with occupancy := k.occupancy ++ [⟨(look s.table.entries i).gen, i⟩] }).offer r.owner
        (.answer r.tag .admitted (some ⟨(look s.table.entries i).gen, i⟩) (some c) (some (s.startPhase r).shown)
          none)).countAdmitted r.owner := by
  rw [createGrant, queue]

/-- What becomes of the ports at an offer depends on the ports alone. -/
theorem ports_offer_congr {s t : State} (ports : t.ports = s.ports) (m : MasterId) (f : OutFrame) :
    (t.offer m f).ports = (s.offer m f).ports := by
  rw [offer_eq_modPort, offer_eq_modPort, ports_modPort, ports_modPort, ports]

end State

/-- Settles O27. -/
theorem grantCreation : Obligations.GrantCreation := by
  intro r c i rest s queue hold phase shown h t
  have phase_eq : s.startPhase r = phase := State.startPhase_eq s r
  have shown_eq : (s.startPhase r).shown = shown := State.shown_startPhase s r
  have created : t = _ := State.createGrant_of_cons queue r c
  rw [shown_eq, phase_eq] at created
  generalize e : ((s.setGrant h ⟨r.owner, r.tag, r.code, r.level, c, r.units, phase⟩).setFreeQueue rest).modCarrier c
    (fun k => { k with occupancy := k.occupancy ++ [h] }) = u at created
  have ports := State.ports_offer_congr (s := s) (t := u) (by rw [← e]; rfl) r.owner
    (.answer r.tag .admitted (some h) (some c) (some shown) none)
  rw [State.offer_eq_ports, ports, ← e] at created
  rw [created]
  exact ⟨rfl, rfl, rfl, rfl, rfl, rfl, rfl, rfl, rfl, rfl, rfl, rfl, rfl, rfl, rfl, rfl⟩

/-! ### The handle and owner checks -/

namespace State

variable {s : State} {m : MasterId} {tag : Half} {h : Handle}

theorem withOwnGrant_of_none (unnamed : s.grantAt h = none) (tag : Half) (serve : Grant → State) :
    s.withOwnGrant m tag h serve = s.offer m (.answer tag .noSuchGrant (some h) none none none) := by
  rw [withOwnGrant, unnamed]
  rfl

theorem withOwnGrant_of_other {g : Grant} (named : s.grantAt h = some g) (other : g.owner ≠ m) (tag : Half)
    (serve : Grant → State) :
    s.withOwnGrant m tag h serve =
      (s.offer m (.answer tag .notOwner (some h) none none none)).setFault m .keyFault := by
  rw [withOwnGrant, named]
  exact if_neg other

@[simp] theorem flags_offer (s : State) (m j : MasterId) (f : OutFrame) :
    ((s.offer m f).port j).flags = (s.port j).flags := by
  have same := congrArg Port.flags (unqueued_offer s m j f)
  exact same

/-- R155: a flag that is set already brings no FAULT. -/
theorem setFault_of_set {f : FaultFlag} (h : (s.port m).flags.has f = true) : s.setFault m f = s := if_pos h

theorem setFault_of_clear {f : FaultFlag} (h : (s.port m).flags.has f = false) :
    s.setFault m f = (s.modPort m fun p => { p with flags := (s.port m).flags.insert f }).offer m
      (.fault ((s.port m).flags.insert f)) :=
  if_neg (by simp [h])

end State

/-- Settles O29. -/
theorem handleAndOwnerChecks : Obligations.HandleAndOwnerChecks := by
  intro c m tag handle s serves names h answered
  obtain ⟨serve, frame⟩ : ∃ serve, exec c s = .next ((s.wake m).withOwnGrant m tag h serve) := by
    rcases names with rfl | rfl
    · exact ⟨_, exec_of_serves serves rfl rfl⟩
    · exact ⟨_, exec_of_serves serves rfl rfl⟩
  have flags : ((answered .notOwner).port m).flags = (s.port m).flags := by
    simp only [answered, State.flags_offer]
    exact (s.port_wake m m).2.2.2.2.1
  refine ⟨fun unnamed => ?_, fun g named other => ⟨fun set => ?_, fun clear => ?_⟩⟩
  · exact frame.trans (congrArg _ (State.withOwnGrant_of_none (s := s.wake m) unnamed tag serve))
  · refine frame.trans (congrArg _ ((State.withOwnGrant_of_other (s := s.wake m) named other tag serve).trans ?_))
    exact State.setFault_of_set (by rw [flags]; exact set)
  · refine frame.trans (congrArg _ ((State.withOwnGrant_of_other (s := s.wake m) named other tag serve).trans ?_))
    rw [State.setFault_of_clear (by rw [flags]; exact clear), flags]
    rfl

/-- Settles O31. -/
theorem releaseByState : Obligations.ReleaseByState := by
  intro m tag handle g s serves h w freed run named own
  subst own
  have frame : run = .next (w.serveRelease g.owner tag h g) := by
    refine (exec_of_serves serves rfl rfl).trans (congrArg _ ?_)
    exact State.withOwnGrant_of_owner (s := w) named tag _
  have serve {t : State} (e : w.serveRelease g.owner tag h g = t) : run = .next t := frame.trans (congrArg _ e)
  refine ⟨fun alone => serve ?_, fun cause d k attached => serve ?_, fun cause revoked => serve ?_⟩
  · rcases alone with ⟨d, p⟩ | p | ⟨cause, d, p⟩ <;> rw [State.serveRelease, p] <;> rfl
  · rw [State.serveRelease, attached]
    rfl
  · rw [State.serveRelease, revoked]
    rfl

end Sys2Proof.Machine
end

section
/-! Leaving a carrier (R13), the freeing of an entry (R58), the revocation of a grant (R57, R60), and the expiries and the
CANCEL that end grants, waiting entries and cases (R39, R51, R78, R97, R104). -/

namespace Sys2Proof.Machine

namespace State

variable {s : State} {h : Handle} {g : Grant}

/-- R58 steps 3 and 4, R68: the entry is FREE at the tail of the free queue, and a table retry is due when an E request
waits. -/
theorem recycle_eq (s : State) (i : GrantIndex) :
    s.recycle i =
      { s with
        table := { s.table with
          entries := put s.table.entries i ⟨(look s.table.entries i).gen + 1, none⟩
          freeQueue := s.table.freeQueue ++ [i] }
        engine := { s.engine with retryDue := s.engine.retryDue || !s.waiting.eList.isEmpty } } := by
  rcases e : s.waiting.eList with _ | ⟨w, l⟩
  · simp [recycle, e]
    simp [setEntry, setFreeQueue]
  · simp [recycle, e]
    simp [setEntry, setFreeQueue, modEngine]

theorem caseAt_modCase (s : State) (k j : CaseId) (f : Case → Case) :
    (s.modCase k f).caseAt j = if j = k then (s.caseAt j).map f else s.caseAt j := by
  by_cases e : j = k
  · subst e
    rw [if_pos rfl, modCase, caseAt_setCase_same]
    rfl
  · rw [if_neg e, modCase, caseAt_setCase_ne _ e]

/-- A change of a case that is FREE is none. -/
theorem modCase_of_none {k : CaseId} (free : s.caseAt k = none) (f : Case → Case) : s.modCase k f = s := by
  have same : put s.recallUnit.cases k none = s.recallUnit.cases := by
    rw [← show s.caseAt k = none from free, caseAt, put_look]
  have map : (look s.recallUnit.cases k).map f = none := by
    rw [show look s.recallUnit.cases k = none from free, Option.map_none]
  rw [modCase, map, setCase, same]

theorem modCase_of_some {k : CaseId} {x : Case} (collecting : s.caseAt k = some x) (f : Case → Case) :
    s.modCase k f = { s with recallUnit := { s.recallUnit with cases := put s.recallUnit.cases k (some (f x)) } } := by
  have map : (look s.recallUnit.cases k).map f = some (f x) := by
    rw [show look s.recallUnit.cases k = some x from collecting, Option.map_some]
  rw [modCase, map, setCase]

theorem returnUnits_eq (s : State) (c : CarrierId) (u : Nat) :
    s.returnUnits c u = { s with engine := { s.engine with
      due := if u = 0 ∨ c ∈ s.engine.due then s.engine.due else s.engine.due ++ [c] } } := by
  by_cases zero : u = 0
  · rw [returnUnits, if_pos zero, if_pos (.inl zero)]
  · rw [returnUnits, if_neg zero, addDue_eq]
    simp only [zero, false_or]

theorem freeGrant_of_revoked {cause : RevokeCause} (named : s.grantAt h = some g) (revoked : g.phase = .revoked cause) :
    s.freeGrant h = (s.modTombstones g.owner fun l => l.erase h).recycle h.index := by
  rw [freeGrant, named]
  simp only [revoked]

theorem freeGrant_of_listed (named : s.grantAt h = some g) (listed : ∀ cause, g.phase ≠ .revoked cause) :
    s.freeGrant h = (((s.unlist g.carrier h).giveUnits g.carrier g.units g.phase.unitsTo).markAttached h .released
      g.phase.attached).recycle h.index := by
  rw [freeGrant, named]
  rcases p : g.phase with d | _ | ⟨cause, d, k⟩ | cause
  case revoked => exact absurd p (listed cause)
  all_goals simp only [p]

/-- A grant attached to no case gives its units to the pool. -/
theorem leave_of_alone (listed : ∀ cause, g.phase ≠ .revoked cause)
    (alone : ∀ cause d j, g.phase ≠ .recalled cause d (some j)) (s : State) :
    (s.giveUnits g.carrier g.units g.phase.unitsTo).markAttached h .released g.phase.attached =
      s.returnUnits g.carrier g.units := by
  rcases p : g.phase with d | _ | ⟨cause, d, _ | k⟩ | cause
  case revoked => exact absurd p (listed cause)
  case recalled.some => exact absurd p (alone cause d k)
  all_goals rfl

end State

/-- Settles O32: a tombstone, a grant that no case waits for, and one whose units a case takes. -/
theorem freeingAnEntry : Obligations.FreeingAnEntry := by
  intro h g s named t k
  obtain ⟨-, gen⟩ := State.entry_of_grantAt named
  by_cases revoked : ∃ cause, g.phase = .revoked cause
  · obtain ⟨cause, p⟩ := revoked
    have freed : t = _ := State.freeGrant_of_revoked named p
    rw [State.recycle_eq] at freed
    rw [freed]
    refine ⟨by rw [← gen]; rfl, rfl, rfl, rfl, rfl, rfl, rfl, rfl, rfl, rfl, rfl, rfl, rfl, fun _ => ⟨rfl, rfl, rfl, rfl⟩,
      fun listed => absurd p (listed cause)⟩
  · have listed : ∀ cause, g.phase ≠ .revoked cause := not_exists.mp revoked
    have freed : t = _ := State.freeGrant_of_listed named listed
    by_cases attached : ∃ cause d j, g.phase = .recalled cause d (some j)
    · obtain ⟨cause, d, j, p⟩ := attached
      have base : (s.unlist g.carrier h).caseAt j = s.caseAt j := rfl
      rw [p, State.recycle_eq] at freed
      rcases at_j : s.caseAt j with _ | x
      · have left : (((s.unlist g.carrier h).giveUnits g.carrier g.units (.earmark j)).markAttached h .released (some j)) =
            s.unlist g.carrier h := by
          simp only [State.giveUnits, State.markAttached, State.addEarmark, State.markVictim]
          rw [State.modCase_of_none (base.trans at_j), State.modCase_of_none (base.trans at_j)]
        simp only [GrantPhase.unitsTo, GrantPhase.attached, left] at freed
        rw [freed]
        refine ⟨by rw [← gen]; rfl, rfl, rfl, rfl, rfl, rfl, rfl, rfl, rfl, rfl, rfl, rfl, rfl, fun r => absurd r revoked,
          fun _ => ⟨rfl, rfl, fun alone => absurd p (alone cause d j), fun _ _ _ _ => ⟨rfl, fun _ => rfl⟩,
            fun cause' d' j' x p' at_j' => ?_⟩⟩
        rw [p] at p'
        cases p'
        rw [at_j] at at_j'
        cases at_j'
      · have left : (((s.unlist g.carrier h).giveUnits g.carrier g.units (.earmark j)).markAttached h .released (some j)) =
            { s.unlist g.carrier h with recallUnit := { s.recallUnit with
              cases := put s.recallUnit.cases j (some { x with
                earmark := x.earmark + g.units
                victims := x.victims.map fun v => if v.handle = h then { v with state := .released } else v }) } } := by
          simp only [State.giveUnits, State.markAttached, State.addEarmark, State.markVictim]
          rw [State.modCase_of_some (base.trans at_j),
            State.modCase_of_some (x := { x with earmark := x.earmark + g.units }) (by simp [State.caseAt])]
          simp only [put_put]
          rfl
        simp only [GrantPhase.unitsTo, GrantPhase.attached, left] at freed
        rw [freed]
        refine ⟨by rw [← gen]; rfl, rfl, rfl, rfl, rfl, rfl, rfl, rfl, rfl, rfl, rfl, rfl, rfl, fun r => absurd r revoked,
          fun _ => ⟨rfl, rfl, fun alone => absurd p (alone cause d j), fun _ _ _ p' => ⟨rfl, fun free => ?_⟩,
            fun cause' d' j' x' p' at_j' => ?_⟩⟩
        · rw [p] at p'
          cases p'
          rw [at_j] at free
          cases free
        · rw [p] at p'
          cases p'
          rw [at_j] at at_j'
          cases at_j'
          rfl
    · have alone : ∀ cause d j, g.phase ≠ .recalled cause d (some j) := fun cause d j p => attached ⟨cause, d, j, p⟩
      rw [State.leave_of_alone listed alone, State.recycle_eq, State.returnUnits_eq] at freed
      rw [freed]
      exact ⟨by rw [← gen]; rfl, rfl, rfl, rfl, rfl, rfl, rfl, rfl, rfl, rfl, rfl, rfl, rfl, fun r => absurd r revoked,
        fun _ => ⟨rfl, rfl, fun _ => ⟨rfl, rfl⟩, fun cause d j p => absurd p (alone cause d j),
          fun cause d j _ p => absurd p (alone cause d j)⟩⟩

/-! ### Revocation -/

namespace State

variable {s : State} {h : Handle} {g : Grant}

/-- R13: what each destination makes of the due list and of the cases. -/
theorem giveUnits_eq (s : State) (c : CarrierId) (u : Nat) (dest : UnitsTo) :
    ∃ cases, s.giveUnits c u dest =
      { s with
        engine := { s.engine with
          due := if dest = .pool ∧ u ≠ 0 ∧ c ∉ s.engine.due then s.engine.due ++ [c] else s.engine.due }
        recallUnit := { s.recallUnit with cases := cases } } ∧
      ∀ j, look cases j = (s.caseAt j).map fun x =>
        { x with earmark := x.earmark + if dest = .earmark j then u else 0 } := by
  cases dest with
  | pool =>
    refine ⟨s.recallUnit.cases, ?_, fun j => by simp [caseAt]⟩
    rw [giveUnits, returnUnits_eq]
    by_cases zero : u = 0
    · simp [zero]
    · by_cases due : c ∈ s.engine.due <;> simp [zero, due]
  | earmark k =>
    refine ⟨_, rfl, fun j => ?_⟩
    rw [look_put]
    split_ifs with e k'
    · subst e
      rfl
    · simp_all
    · simp_all
    · simp [caseAt]
  | nowhere => exact ⟨s.recallUnit.cases, rfl, fun j => by simp [caseAt]⟩

/-- R86: the record of the case a grant was attached to. -/
theorem markAttached_eq (s : State) (h : Handle) (v : VictimState) (k : Option CaseId) :
    ∃ cases, s.markAttached h v k = { s with recallUnit := { s.recallUnit with cases := cases } } ∧
      ∀ j, look cases j = (s.caseAt j).map fun x =>
        { x with victims := x.victims.map fun w => if k = some j ∧ w.handle = h then { w with state := v } else w } := by
  cases k with
  | none => exact ⟨s.recallUnit.cases, rfl, fun j => by simp [caseAt]⟩
  | some k =>
    refine ⟨_, rfl, fun j => ?_⟩
    rw [look_put]
    split_ifs with e
    · subst e
      simp [caseAt]
    · have other : some k ≠ some j := fun same => e (Option.some.inj same).symm
      simp [caseAt, other]

/-- The state between the two halves of a revocation: the grant is off its list and its units are where they go (R57). -/
def takeAway (s : State) (h : Handle) (g : Grant) (cause : RevokeCause) (dest : UnitsTo) : State :=
  (((s.setGrant h { g with units := 0, phase := .revoked cause }).unlist g.carrier h).giveUnits g.carrier g.units
    dest).markAttached h .revoked g.phase.attached

theorem revoke_of_grantAt (named : s.grantAt h = some g) (cause : RevokeCause) (dest : UnitsTo) :
    s.revoke h cause dest =
      (((s.takeAway h g cause dest).addTombstone g.owner h).offer g.owner (.revokedNotice h cause)).countRevoked
        g.owner := by
  rw [revoke, named]
  rfl

theorem takeAway_eq (named : s.grantAt h = some g) (cause : RevokeCause) (dest : UnitsTo) :
    ∃ cases, s.takeAway h g cause dest =
      { s with
        table := { s.table with
          entries := put s.table.entries h.index ⟨h.gen, some { g with units := 0, phase := .revoked cause }⟩ }
        pool := { s.pool with carriers := put s.pool.carriers g.carrier { s.carrier g.carrier with
          occupancy := (s.carrier g.carrier).occupancy.erase h, marks := (s.carrier g.carrier).marks.erase h } }
        engine := { s.engine with due :=
          if dest = .pool ∧ g.units ≠ 0 ∧ g.carrier ∉ s.engine.due then s.engine.due ++ [g.carrier] else s.engine.due }
        recallUnit := { s.recallUnit with cases := cases } } ∧
      ∀ j, look cases j = (s.caseAt j).map fun x =>
        { x with
          earmark := x.earmark + if dest = .earmark j then g.units else 0
          victims := x.victims.map fun v =>
            if g.phase.attached = some j ∧ v.handle = h then { v with state := .revoked } else v } := by
  have base := setGrant_of_grantAt named { g with units := 0, phase := .revoked cause }
  obtain ⟨given, give, gives⟩ :=
    ((s.setGrant h { g with units := 0, phase := .revoked cause }).unlist g.carrier h).giveUnits_eq g.carrier g.units dest
  obtain ⟨marked, mark, marks⟩ := markAttached_eq
    (((s.setGrant h { g with units := 0, phase := .revoked cause }).unlist g.carrier h).giveUnits g.carrier g.units dest) h
    .revoked g.phase.attached
  refine ⟨marked, ?_, fun j => ?_⟩
  · rw [takeAway, mark, give, base]
    rfl
  · rw [marks j, give]
    simp only [caseAt, gives j, Option.map_map]
    rfl

theorem addTombstone_of_few {m : MasterId} (few : (look s.table.tombstones m).length < 16) (h : Handle) :
    s.addTombstone m h = s.modTombstones m fun l => l ++ [h] := by
  unfold addTombstone
  split
  · rfl
  · next oldest rest e =>
    rw [e, List.length_cons] at few
    exact congrArg (fun t : State => t.modTombstones m fun l => l ++ [h]) (if_pos few)

/-- R60: the oldest of sixteen is freed. -/
theorem addTombstone_of_full {m : MasterId} {oldest : Handle} {rest : List Handle} {o : Grant} {why : RevokeCause}
    (stones : look s.table.tombstones m = oldest :: rest) (full : 15 ≤ rest.length) (once : oldest ∉ rest)
    (named : s.grantAt oldest = some o) (own : o.owner = m) (revoked : o.phase = .revoked why) (h : Handle) :
    s.addTombstone m h =
      { s with
        table := { s.table with
          entries := put s.table.entries oldest.index ⟨oldest.gen + 1, none⟩
          freeQueue := s.table.freeQueue ++ [oldest.index]
          tombstones := put s.table.tombstones m (rest ++ [h]) }
        engine := { s.engine with retryDue := s.engine.retryDue || !s.waiting.eList.isEmpty } } := by
  obtain ⟨-, gen⟩ := entry_of_grantAt named
  have freed : (s.modTombstones m fun _ => rest).freeGrant oldest = _ := freeGrant_of_revoked (h := oldest) named revoked
  have long : ¬rest.length + 1 < Config.tombstoneLimit := Nat.not_lt.mpr (Nat.succ_le_succ full)
  have added : s.addTombstone m h = ((s.modTombstones m fun _ => rest).freeGrant oldest).modTombstones m fun l => l ++ [h] := by
    rw [addTombstone, stones]
    exact congrArg (fun t : State => t.modTombstones m fun l => l ++ [h]) (if_neg long)
  rw [added, freed, recycle_eq, own]
  simp [modTombstones, gen, List.erase_of_not_mem once]

end State

/-- Settles O33: the half that takes the grant away, then the tombstone with and without the oldest. -/
theorem revokingAGrant : Obligations.RevokingAGrant := by
  intro h cause dest g s named t revoked stones k due attached taken
  obtain ⟨cases, away, cases_eq⟩ := State.takeAway_eq named cause dest
  have attached_eq : g.phase.attached = attached := by
    simp only [attached]
    cases g.phase <;> rfl
  rw [attached_eq] at cases_eq
  have revoke : t = _ := State.revoke_of_grantAt named cause dest
  refine ⟨fun few => ?_, fun oldest rest o why stones_eq full other once named_o own revoked_o => ?_⟩
  · rw [away, State.addTombstone_of_few (by exact few), State.offer_eq_ports,
      State.ports_offer_congr (s := s) (by rfl)] at revoke
    change (t.ports = _ ∧ _) ∧ _
    rw [revoke]
    exact ⟨⟨rfl, rfl, rfl, cases_eq, rfl, rfl, rfl, rfl, rfl, rfl, rfl, rfl⟩, rfl, rfl⟩
  · have named_away : (s.takeAway h g cause dest).grantAt oldest = some o := by
      rw [← named_o, away]
      simp only [State.grantAt, look_put_ne _ other]
    have added := State.addTombstone_of_full (s := s.takeAway h g cause dest) (by rw [away]; exact stones_eq) full once
      named_away own revoked_o h
    rw [added, away, State.offer_eq_ports, State.ports_offer_congr (s := s) (by rfl)] at revoke
    change (t.ports = _ ∧ _) ∧ _
    rw [revoke]
    exact ⟨⟨rfl, rfl, rfl, cases_eq, rfl, rfl, rfl, rfl, rfl, rfl, rfl, rfl⟩, rfl, rfl⟩

end Sys2Proof.Machine
end

section
/-! CANCEL (R39, R104) and the expiries of holds, recalls and waits (R51, R97, R78). -/

namespace Sys2Proof.Machine

namespace State

variable {s : State} {k : CaseId} {x : Case} {m : MasterId} {tag : Half} {h : Handle}

/-- Detaching writes the Grant Table alone. -/
theorem detachVictim_eq_table (k : CaseId) (s : State) (v : Victim) :
    detachVictim k s v = { s with table := (detachVictim k s v).table } := by
  unfold detachVictim
  split
  · rfl
  · rfl
  · split
    · rfl
    · split
      · split_ifs <;> rfl
      all_goals rfl

theorem detachAll_eq_table (s : State) (k : CaseId) (x : Case) :
    s.detachAll k x = { s with table := (s.detachAll k x).table } := by
  have fold (l : List Victim) (t : State) :
      l.foldl (detachVictim k) t = { t with table := (l.foldl (detachVictim k) t).table } := by
    induction l generalizing t with
    | nil => rfl
    | cons v rest ih =>
      rw [List.foldl_cons, ih, detachVictim_eq_table k t v]
  exact fold x.victims s

/-- R104. -/
theorem abandon_of_collecting (collecting : s.caseAt k = some x) :
    s.abandon k =
      if x.earmark = 0 ∨ x.target ∈ s.engine.due then
        { s.detachAll k x with recallUnit := { s.recallUnit with
          cases := put s.recallUnit.cases k none, age := s.recallUnit.age.filter fun j => j ≠ k } }
      else
        { s.detachAll k x with
          recallUnit := { s.recallUnit with
            cases := put s.recallUnit.cases k none, age := s.recallUnit.age.filter fun j => j ≠ k }
          engine := { s.engine with due := s.engine.due ++ [x.target] } } := by
  have engine : (s.detachAll k x).engine = s.engine := by rw [detachAll_eq_table]
  have freed : (s.detachAll k x).freeCase k = { s.detachAll k x with recallUnit := { s.recallUnit with
      cases := put s.recallUnit.cases k none, age := s.recallUnit.age.filter fun j => j ≠ k } } := by
    rw [← recallUnit_detachAll s k x]
    rfl
  rw [abandon, collecting]
  simp only
  rw [returnUnits_eq, freed]
  by_cases kept : x.earmark = 0 ∨ x.target ∈ s.engine.due
  · simp only [engine, if_pos kept]
  · simp only [engine, if_neg kept]

/-- R39, R78: a waiting entry under a tag is found in the master's lists. -/
theorem findWaiting_isSome_iff : (s.findWaiting m tag).isSome = true ↔ s.WaitsUnder m tag := by
  rw [findWaiting, List.find?_isSome, waitsUnder_iff]
  simp only [decide_eq_true_eq]

theorem findWaiting_of_not (h : ¬s.WaitsUnder m tag) : s.findWaiting m tag = none := by
  rw [← Option.not_isSome_iff_eq_none, findWaiting_isSome_iff]
  exact h

/-- The entry leaves its list. -/
theorem removeWaiting_eq (s : State) (m : MasterId) (tag : Half) :
    s.removeWaiting m tag = { s with waiting :=
      { eList := s.waiting.eList.filter fun w => !(w.req.owner == m && w.req.tag == tag)
        p1Lists := put s.waiting.p1Lists m ((look s.waiting.p1Lists m).filter fun w => !(w.req.tag == tag))
        p2Lists := put s.waiting.p2Lists m ((look s.waiting.p2Lists m).filter fun w => !(w.req.tag == tag)) } } := by
  simp only [removeWaiting, modWaiting, decide_not]
  rfl

/-- R39: CANCELLED under the target tag, one more refused, and DONE under the CANCEL's own tag. -/
theorem answerCancelled_eq (s : State) (m : MasterId) (tag target : Half) :
    s.answerCancelled m tag target =
      ((s.offer m (plainAnswer target .cancelled)).countRefused m).offer m (plainAnswer tag .done) := rfl

theorem caseUnder_iff : s.CaseUnder m tag k ↔
    (match s.caseAt k with | some x => decide (x.req.owner = m) && decide (x.req.tag = tag) | none => false) = true := by
  simp only [CaseUnder]
  cases s.caseAt k <;> simp

theorem mem_allCases (k : CaseId) : k ∈ allCases := by
  have all : ∀ k : CaseId, k ∈ allCases := by decide
  exact all k

theorem findCase_of_unique (under : s.CaseUnder m tag k) (unique : ∀ j, s.CaseUnder m tag j → j = k) :
    s.findCase m tag = some k := by
  obtain ⟨j, found⟩ : ∃ j, s.findCase m tag = some j := by
    rw [← Option.isSome_iff_exists, findCase, List.find?_isSome]
    exact ⟨k, mem_allCases k, caseUnder_iff.mp under⟩
  have holds := List.find?_some (show allCases.find? _ = some j from found)
  rw [found, unique j (caseUnder_iff.mpr holds)]

theorem findCase_of_none (nowhere : ∀ j, ¬s.CaseUnder m tag j) : s.findCase m tag = none :=
  List.find?_eq_none.mpr fun j _ => mt caseUnder_iff.mpr (nowhere j)

theorem serveCancel_of_waiting (waits : s.WaitsUnder m target) :
    s.serveCancel m tag target = (s.removeWaiting m target).answerCancelled m tag target := by
  obtain ⟨w, found⟩ := Option.isSome_iff_exists.mp (findWaiting_isSome_iff.mpr waits)
  rw [serveCancel, found]

theorem serveCancel_of_case (free : ¬s.WaitsUnder m target) (found : s.findCase m target = some k) :
    s.serveCancel m tag target = ((s.abandon k).answerCancelled m tag target).finish := by
  rw [serveCancel, findWaiting_of_not free]
  simp only [found]

theorem serveCancel_of_none (free : ¬s.WaitsUnder m target) (none : s.findCase m target = none) :
    s.serveCancel m tag target = s.offer m (plainAnswer tag .noSuchRequest) := by
  rw [serveCancel, findWaiting_of_not free]
  simp only [none]
  rfl

end State

/-- Settles O34. -/
theorem cancelEndsThePendingRequest : Obligations.CancelEndsThePendingRequest := by
  refine ⟨?_, ?_⟩
  · intro k x s collecting t freed
    exact State.abandon_of_collecting collecting
  intro m tag target s serves answered run
  have frame : run = .next ((s.wake m).serveCancel m tag target) := exec_of_serves serves rfl rfl
  refine ⟨fun waits => ?_, fun free k under unique => ?_, fun free none => ?_⟩
  · refine frame.trans (congrArg _ ?_)
    rw [State.serveCancel_of_waiting (s := s.wake m) waits, State.removeWaiting_eq, State.answerCancelled_eq]
    rfl
  · refine frame.trans (congrArg _ ?_)
    rw [State.serveCancel_of_case (s := s.wake m) free (State.findCase_of_unique (s := s.wake m) under unique)]
    rfl
  · refine frame.trans (congrArg _ ?_)
    exact State.serveCancel_of_none (s := s.wake m) free (State.findCase_of_none (s := s.wake m) none)

/-! ### Expiries -/

namespace State

variable {s : State} {h : Handle} {g : Grant}

theorem expireHold_of_due {d : Time} (named : s.grantAt h = some g) (held : g.phase = .held d) (due : d ≤ s.now) :
    s.expireHold h = (s.revoke h .holdExpired .pool).finish := by
  simp only [expireHold, named, held, if_pos due]

/-- A hold that is gone, or ahead, is left alone. -/
theorem expireHold_of_ahead (ahead : ∀ g d, s.grantAt h = some g → g.phase = .held d → s.now < d) :
    s.expireHold h = s := by
  unfold expireHold
  split
  · rfl
  · next g named =>
    split
    · next d held => exact if_neg (Nat.not_le.mpr (ahead g d named held))
    all_goals rfl

theorem expireRecall_of_due {cause : RecallCause} {d : Time} {k : Option CaseId} (named : s.grantAt h = some g)
    (recalled : g.phase = .recalled cause d k) (due : d ≤ s.now) :
    s.expireRecall h =
      ((s.revoke h .deadline (GrantPhase.recalled cause d k).unitsTo).trySettleAttached k).finish := by
  simp only [expireRecall, named, recalled, if_pos due]

theorem expireRecall_of_ahead
    (ahead : ∀ g cause d k, s.grantAt h = some g → g.phase = .recalled cause d k → s.now < d) :
    s.expireRecall h = s := by
  unfold expireRecall
  split
  · rfl
  · next g named =>
    split
    · next cause d k recalled => exact if_neg (Nat.not_le.mpr (ahead g cause d k named recalled))
    all_goals rfl

end State

/-- Settles O35. -/
theorem holdAndRecallExpiries : Obligations.HoldAndRecallExpiries := by
  intro handle s h
  have hold : exec (.holdExpiry handle) s = .next (s.expireHold h) := rfl
  have recallExpiry : exec (.recallDeadlineExpiry handle) s = .next (s.expireRecall h) := rfl
  refine ⟨fun g d named held due => ?_, fun ahead => ?_, fun g cause d k named recalled due => ?_,
    fun g cause d named recalled due => ?_, fun ahead => ?_⟩
  · rw [hold, State.expireHold_of_due named held due]
  · rw [hold, State.expireHold_of_ahead ahead]
  · rw [recallExpiry, State.expireRecall_of_due named recalled due]
    rfl
  · rw [recallExpiry, State.expireRecall_of_due named recalled due]
    rfl
  · rw [recallExpiry, State.expireRecall_of_ahead ahead]

/-- Settles O36. -/
theorem waitExpiryEndsTheEntry : Obligations.WaitExpiryEndsTheEntry := by
  intro m tag s
  have frame : exec (.waitExpiry m tag) s = .next (s.expireWait m tag) := rfl
  refine ⟨fun w found due => ?_, fun w found ahead => ?_, fun free => ?_, State.findWaiting_isSome_iff.symm⟩
  · rw [frame, State.expireWait, found]
    simp only
    rw [if_pos due, State.removeWaiting_eq]
    rfl
  · rw [frame, State.expireWait, found]
    simp only
    rw [if_neg (Nat.not_le.mpr ahead)]
  · rw [frame, State.expireWait, State.findWaiting_of_not free]

end Sys2Proof.Machine
end

section
/-! The Epoch and Load Unit: ticks and the epoch timers (R127 to R131), the stages of a boundary (R133, R136, R138, R140),
and the evaluation (R134, R135). -/

namespace Sys2Proof.Machine

namespace State

variable {s : State}

theorem exec_epochTick_of_serves (serves : s.RadioServes) (number : Byte) :
    exec (.epochTick number) s = .next (s.wakeRadio.serveTick (Fin.ofNat 64 number.toNat)) :=
  congrArg Host.Outcome.next (onRadioFrame_of_serves serves (.epochTick number) fun s => s.tickFrame number)

theorem serveTick_of_source (h : s.epoch.state = .source) (n : Fin 64) : s.serveTick n = s := by
  rw [serveTick, h]

theorem serveTick_of_successor (h : s.epoch.state = .follow) : s.serveTick (s.epoch.number + 1) = s.startLoss.boundary := by
  rw [serveTick, h]
  exact if_pos rfl

theorem serveTick_of_slip (h : s.epoch.state = .follow) {n : Fin 64} (slips : n ≠ s.epoch.number + 1) :
    s.serveTick n = s.slip n := by
  rw [serveTick, h]
  exact if_neg slips

theorem serveTick_of_lost (h : s.epoch.state = .followLost) (n : Fin 64) : s.serveTick n = s.resync n := by
  rw [serveTick, h]

theorem expireInterval_of_due (h : s.epoch.state ≠ .follow) {d : Time} (runs : s.epoch.intervalTimer = some d)
    (due : d ≤ s.epoch.timebase) : s.expireInterval = s.startInterval.boundary := by
  rw [expireInterval, runs]
  cases e : s.epoch.state
  case follow => exact absurd e h
  all_goals exact if_pos due

theorem expireInterval_of_ahead
    (h : s.epoch.state = .follow ∨ ∀ d, s.epoch.intervalTimer = some d → s.epoch.timebase < d) :
    s.expireInterval = s := by
  unfold expireInterval
  split
  · next d state runs => exact if_neg (Nat.not_le.mpr (h.elim (by simp [state]) fun h => h d runs))
  · next d state runs => exact if_neg (Nat.not_le.mpr (h.elim (by simp [state]) fun h => h d runs))
  · rfl

theorem expireLoss_of_due (h : s.epoch.state = .follow) {d : Time} (runs : s.epoch.lossTimer = some d)
    (due : d ≤ s.epoch.timebase) :
    s.expireLoss = ((s.modEpoch fun e => { e with state := .followLost, lossTimer := none }).startInterval).boundary := by
  rw [expireLoss, runs, h]
  exact if_pos due

theorem expireLoss_of_ahead
    (h : s.epoch.state ≠ .follow ∨ ∀ d, s.epoch.lossTimer = some d → s.epoch.timebase < d) : s.expireLoss = s := by
  unfold expireLoss
  split
  · next d state runs => exact if_neg (Nat.not_le.mpr (h.elim (fun h => absurd state h) fun h => h d runs))
  · rfl

end State

/-- Settles O49: a tick by the epoch state, and the two epoch timers, due or not. -/
theorem ticksAndEpochTimers : Obligations.TicksAndEpochTimers := by
  intro number s now interval
  have interval_frame : exec .intervalTimerExpiry s = .next s.expireInterval := rfl
  have loss_frame : exec .lossTimerExpiry s = .next s.expireLoss := rfl
  refine ⟨?_, fun d state runs due => ?_, fun h => ?_, fun d state runs due => ?_, fun h => ?_⟩
  · intro serves w run n named
    have taken : run = .next (w.serveTick n) := by
      rw [show n = Fin.ofNat 64 number.toNat from Fin.ext named]
      exact State.exec_epochTick_of_serves serves number
    rw [taken]
    refine ⟨fun source => ?_, fun follow successor => ?_, fun follow slips => ?_, fun lost => ?_⟩
    · rw [State.serveTick_of_source (s := w) source]
    · rw [show n = w.epoch.number + 1 from successor, State.serveTick_of_successor (s := w) follow]
      rfl
    · rw [State.serveTick_of_slip (s := w) follow slips]
      rfl
    · rw [State.serveTick_of_lost (s := w) lost]
      rfl
  · rw [interval_frame, State.expireInterval_of_due state runs due]
    rfl
  · rw [interval_frame, State.expireInterval_of_ahead h]
  · rw [loss_frame, State.expireLoss_of_due state runs due]
    rfl
  · rw [loss_frame, State.expireLoss_of_ahead h]

namespace State

/-- An offer to all reads the ports alone. -/
theorem ports_offerAll_congr {s t : State} (ports : t.ports = s.ports) (f : OutFrame) :
    (t.offerAll f).ports = (s.offerAll f).ports := by
  rw [offerAll_eq, offerAll_eq]
  exact ports_offer_congr (ports_offer_congr (ports_offer_congr (ports_offer_congr ports 0 f) 1 f) 2 f) 3 f

theorem offerAll_modEpoch (s : State) (g : EpochUnit → EpochUnit) (f : OutFrame) :
    (s.modEpoch g).offerAll f = (s.offerAll f).modEpoch g := by
  simp only [offerAll_eq, offer_eq_modPort]
  rfl

/-- What an offer of an OCCUPANCY makes of the radio link's port. -/
theorem radio_offerOccupancy_congr {s t : State} (radio : t.radio = s.radio) (f : RadioFrame) :
    (t.offerOccupancy f).radio = (s.offerOccupancy f).radio := by
  unfold offerOccupancy
  rw [radio]
  cases s.radio.link
  · exact radio
  all_goals
    rw [radio_modRadio, radio_modRadio, radio]

theorem offerOccupancy_eq_radio (s : State) (f : RadioFrame) :
    s.offerOccupancy f = { s with radio := (s.offerOccupancy f).radio } := by
  unfold offerOccupancy
  split <;> rfl

/-- A change of every port, each once. -/
theorem foldl_modPort_eq_ports (f : Port → Port) (l : List MasterId) (s : State) :
    l.foldl (fun s m => s.modPort m f) s = { s with ports := (l.foldl (fun s m => s.modPort m f) s).ports } := by
  induction l generalizing s with
  | nil => rfl
  | cons m rest ih => rw [List.foldl_cons, ih]; rfl

theorem port_foldl_modPort (s : State) (f : Port → Port) (m : MasterId) :
    (allMasters.foldl (fun s m => s.modPort m f) s).port m = f (s.port m) := by
  change ((((s.modPort 0 f).modPort 1 f).modPort 2 f).modPort 3 f).port m = f (s.port m)
  match m with
  | 0 => rw [port_modPort_ne _ (by decide), port_modPort_ne _ (by decide), port_modPort_ne _ (by decide),
      port_modPort_same]
  | 1 => rw [port_modPort_ne _ (by decide), port_modPort_ne _ (by decide), port_modPort_same,
      port_modPort_ne _ (by decide)]
  | 2 => rw [port_modPort_ne _ (by decide), port_modPort_same, port_modPort_ne _ (by decide),
      port_modPort_ne _ (by decide)]
  | 3 => rw [port_modPort_same, port_modPort_ne _ (by decide), port_modPort_ne _ (by decide),
      port_modPort_ne _ (by decide)]

theorem frameFaults_cleared (s : State) (m : MasterId) :
    look (allMasters.foldl (fun s m => s.modPort m fun p => { p with frameFaults := 0 }) s).ports m =
      { s.port m with frameFaults := 0 } :=
  port_foldl_modPort s (fun p => { p with frameFaults := 0 }) m

/-- Stage 2 of a boundary, field by field: the epochs, the ports and the thinning counters. -/
theorem setLevel_eq (s : State) (new : Load) (n : Nat) :
    ∃ thinning, s.setLevel new n =
      { s with
        epoch := { s.epoch with level := new, fallCount := n }
        ports := (if new = s.epoch.level then s else s.offerAll (.level s.epoch.level new)).ports
        intake := { s.intake with thinning := thinning } } ∧
      ∀ m c, look (look thinning m) c =
        if new = .critical ∧ s.epoch.level ≠ .critical then 0 else look (look s.intake.thinning m) c := by
  simp only [setLevel, offerAll_modEpoch]
  by_cases same : new = s.epoch.level
  · refine ⟨s.intake.thinning, ?_, fun m c => (if_neg fun ⟨critical, other⟩ => other (same ▸ critical)).symm⟩
    rw [if_pos same, if_pos same]
    rfl
  rw [if_neg same, if_neg same, offerAll_eq_ports]
  by_cases critical : new = .critical
  · refine ⟨Vector.replicate 4 (Vector.replicate 64 0), ?_, fun m c => ?_⟩
    · rw [if_pos critical]
      rfl
    · rw [if_pos ⟨critical, fun e => same (critical.trans e.symm)⟩]
      simp [look]
  · refine ⟨s.intake.thinning, ?_, fun m c => (if_neg fun h => critical h.1).symm⟩
    rw [if_neg critical]
    rfl

/-- Stage 5 of a boundary. -/
theorem closeEpoch_eq (s : State) (v : Evaluation) (l : Load) :
    s.closeEpoch v l =
      { s with
        ports := (allMasters.foldl (fun s m => s.modPort m fun p => { p with frameFaults := 0 }) s).ports
        epoch := { s.epoch with
          lastEval :=
            { number := s.epoch.number, time := s.epoch.timebase, occupancyPercent := v.occupancyPercent,
              waitingDepth := v.waitingDepth, ePressure := v.ePressure, levelBefore := l, levelAfter := s.epoch.level,
              fallCount := s.epoch.fallCount, counters := s.epoch.counters },
          counters := .zero } } := rfl

/-- Stages 3 to 5 of a boundary, from the state that stage 2 leaves. -/
theorem lastStages_eq (u : State) (v : Evaluation) (l : Load) (values : List (Nat × Nat)) :
    ((u.offerAll (.epoch u.epoch.number u.epoch.level .none)).offerOccupancy
        (.occupancy (u.offerAll (.epoch u.epoch.number u.epoch.level .none)).epoch.number values)).closeEpoch v l =
      { u with
        ports := (allMasters.foldl (fun s m => s.modPort m fun p => { p with frameFaults := 0 })
          (u.offerAll (.epoch u.epoch.number u.epoch.level .none))).ports
        radio := (u.offerOccupancy (.occupancy u.epoch.number values)).radio
        epoch := { u.epoch with
          lastEval :=
            { number := u.epoch.number, time := u.epoch.timebase, occupancyPercent := v.occupancyPercent,
              waitingDepth := v.waitingDepth, ePressure := v.ePressure, levelBefore := l, levelAfter := u.epoch.level,
              fallCount := u.epoch.fallCount, counters := u.epoch.counters },
          counters := .zero } } := by
  have told := offerAll_eq_ports u (.epoch u.epoch.number u.epoch.level .none)
  generalize u.offerAll (.epoch u.epoch.number u.epoch.level .none) = w at told ⊢
  have number : w.epoch.number = u.epoch.number := by rw [told]
  have heard := radio_offerOccupancy_congr (s := u) (t := w) (by rw [told]) (.occupancy u.epoch.number values)
  rw [number, offerOccupancy_eq_radio, heard, closeEpoch_eq, told]
  rfl

/-- Stages 2 to 5 of a boundary for any values of the evaluation, field by field. -/
theorem stages_eq (s : State) (v : Evaluation) (new : Load) (n : Nat) (values : List (Nat × Nat)) :
    let number := s.epoch.number + 1
    let u := (s.modEpoch fun e => { e with number := e.number + 1 }).setLevel new n
    let noticed := (if new = s.epoch.level then s else s.offerAll (.level s.epoch.level new)).offerAll
      (.epoch number new .none)
    ∃ thinning ports,
      ((u.offerAll (.epoch u.epoch.number u.epoch.level .none)).offerOccupancy
        (.occupancy (u.offerAll (.epoch u.epoch.number u.epoch.level .none)).epoch.number values)).closeEpoch v
          s.epoch.level =
        { s with
          ports := ports
          radio := (s.offerOccupancy (.occupancy number values)).radio
          intake := { s.intake with thinning := thinning }
          epoch := { s.epoch with
            number := number, level := new, fallCount := n, counters := .zero,
            lastEval :=
              { number := number, time := s.epoch.timebase, occupancyPercent := v.occupancyPercent,
                waitingDepth := v.waitingDepth, ePressure := v.ePressure, levelBefore := s.epoch.level,
                levelAfter := new, fallCount := n, counters := s.epoch.counters } } } ∧
      (∀ m, look ports m = { noticed.port m with frameFaults := 0 }) ∧
      ∀ m c, look (look thinning m) c =
        if new = .critical ∧ s.epoch.level ≠ .critical then 0 else look (look s.intake.thinning m) c := by
  intro number u noticed
  obtain ⟨thinning, stage2, thinned⟩ := setLevel_eq (s.modEpoch fun e => { e with number := e.number + 1 }) new n
  refine ⟨thinning, (allMasters.foldl (fun s m => s.modPort m fun p => { p with frameFaults := 0 }) noticed).ports, ?_,
    ?_, thinned⟩
  case refine_2 =>
    clear_value noticed
    exact frameFaults_cleared noticed
  have after : u = _ := stage2
  clear_value u
  have level : (if new = s.epoch.level then s.modEpoch fun e => { e with number := e.number + 1 }
      else (s.modEpoch fun e => { e with number := e.number + 1 }).offerAll (.level s.epoch.level new)).ports =
      (if new = s.epoch.level then s else s.offerAll (.level s.epoch.level new)).ports := by
    split_ifs
    · rfl
    · refine ports_offerAll_congr ?_ _
      rfl
  have epoch : u.epoch = { s.epoch with number := number, level := new, fallCount := n } := by rw [after]; rfl
  have ports : u.ports = (if new = s.epoch.level then s else s.offerAll (.level s.epoch.level new)).ports := by
    rw [after]
    exact level
  have radio : u.radio = s.radio := by rw [after]; rfl
  have told : ∀ f, (u.offerAll f).ports =
      ((if new = s.epoch.level then s else s.offerAll (.level s.epoch.level new)).offerAll f).ports :=
    ports_offerAll_congr ports
  have reset : ∀ w x : State, w.ports = x.ports →
      (allMasters.foldl (fun s m => s.modPort m fun p => { p with frameFaults := 0 }) w).ports =
        (allMasters.foldl (fun s m => s.modPort m fun p => { p with frameFaults := 0 }) x).ports := by
    intro w x e
    obtain ⟨wp⟩ := w
    obtain ⟨xp⟩ := x
    obtain rfl : wp = xp := e
    rfl
  rw [lastStages_eq, radio_offerOccupancy_congr radio, reset _ _ (told _), epoch]
  rw [after]
  rfl

end State

theorem allCarriers_eq : allCarriers = List.finRange 12 := by decide

/-- Settles O50: the boundary is its stages one after another, each known field by field. -/
theorem boundaryStages : Obligations.BoundaryStages := by
  intro s
  have whole := State.stages_eq s s.evaluate (s.epoch.evaluated s.evaluate).1 (s.epoch.evaluated s.evaluate).2
    s.occupancyValues
  change ∃ thinning ports, s.boundary = _ ∧ _ at whole
  obtain ⟨thinning, ports, stages, port, thinned⟩ := whole
  rw [State.occupancyValues, allCarriers_eq] at stages
  intro t v next number noticed values
  have t_eq : t = _ := stages
  clear_value t
  clear stages
  subst t_eq
  exact ⟨rfl, port, rfl, rfl, rfl, thinned, rfl, rfl, rfl, rfl, rfl, rfl, rfl, rfl⟩

end Sys2Proof.Machine
end

section
/-! The values of an evaluation and the movement of the level (R134, R135), and a code that is no code of a gate (R25). -/

namespace Sys2Proof.Machine

/-- A sum over the carriers that are not OFF. -/
theorem State.sum_carriersInUse (s : State) (f : CarrierId → Nat) :
    (s.carriersInUse.map f).sum = ((List.finRange 12).map fun c => if (s.carrier c).state = .off then 0 else f c).sum := by
  rw [carriersInUse, allCarriers_eq]
  induction List.finRange 12 with
  | nil => rfl
  | cons c rest ih =>
    by_cases off : (s.carrier c).state = .off
    · rw [List.filter_cons_of_neg (by simp [off]), ih, List.map_cons, List.sum_cons, if_pos off, Nat.zero_add]
    · rw [List.filter_cons_of_pos (by simp [off]), List.map_cons, List.sum_cons, ih, List.map_cons, List.sum_cons,
        if_neg off]

theorem Evaluation.rises_iff {v : Evaluation} {l : Load} {t : ThresholdSet} :
    v.rises l t = true ↔ t.riseOccupancy ≤ v.occupancyPercent ∨ t.riseWaiting ≤ v.waitingDepth ∨
      (v.ePressure = true ∧ (l = .normal ∨ l = .strained)) := by
  simp [rises, or_assoc]

theorem Evaluation.calm_iff {v : Evaluation} {t : ThresholdSet} :
    v.calm t = true ↔ v.occupancyPercent < t.fallOccupancy ∧ v.waitingDepth < t.fallWaiting ∧ v.ePressure = false := by
  simp [calm, and_assoc]

namespace EpochUnit

variable {e : EpochUnit} {v : Evaluation} {i : Fin 3}

theorem evaluated_of_rises (step : e.level.stepUp = some i) (rises : v.rises e.level (look e.thresholds i) = true) :
    e.evaluated v = (e.level.next, 0) := by
  rw [evaluated, step]
  exact if_pos rises

theorem evaluated_of_not_rises (stays : ∀ i, e.level.stepUp = some i → ¬v.rises e.level (look e.thresholds i) = true) :
    e.evaluated v = e.afterFallTest v := by
  unfold evaluated
  split
  · next i step => exact if_neg (stays i step)
  · rfl

theorem afterFallTest_of_normal (normal : e.level = .normal) : e.afterFallTest v = (.normal, 0) := by
  simp [afterFallTest, normal, Load.stepDown]

theorem afterFallTest_of_not_calm (step : e.level.stepDown = some i) (not_calm : ¬v.calm (look e.thresholds i) = true) :
    e.afterFallTest v = (e.level, 0) := by
  rw [afterFallTest, step]
  exact if_neg not_calm

theorem afterFallTest_of_calm (step : e.level.stepDown = some i) (calm : v.calm (look e.thresholds i) = true) :
    e.afterFallTest v =
      if e.fallPersistence ≤ e.fallCount + 1 then (e.level.previous, 0) else (e.level, e.fallCount + 1) := by
  rw [afterFallTest, step]
  exact if_pos calm

end EpochUnit

/-- Settles O51: the sums carrier by carrier, then the rise test and the fall test for each step between levels. -/
theorem evaluationRiseAndFall : Obligations.EvaluationRiseAndFall := by
  refine ⟨?_, ?_⟩
  · intro s total
    refine ⟨?_, rfl, ?_⟩
    · have sums (f) : total f = (s.carriersInUse.map f).sum := (s.sum_carriersInUse f).symm
      rw [sums, sums]
      rfl
    · change s.ePressure = true ↔ _
      simp [State.ePressure, or_assoc]
  · intro e v rises calm up
    have steps (x : Load × Load × Fin 3) (h : x ∈ up) : x.1.stepUp = some x.2.2 ∧ x.1.next = x.2.1 ∧
        x.2.1.stepDown = some x.2.2 ∧ x.2.1.previous = x.1 := by
      simp only [up, List.mem_cons, List.not_mem_nil, or_false] at h
      rcases h with rfl | rfl | rfl <;> exact ⟨rfl, rfl, rfl, rfl⟩
    have listed (l : Load) (i : Fin 3) (h : l.stepUp = some i) : ∃ y ∈ up, l = y.1 ∧ i = y.2.2 := by
      cases l <;> cases h <;> simp [up]
    have stays (h : ∀ y ∈ up, e.level = y.1 → ¬rises y.2.2) : e.evaluated v = e.afterFallTest v := by
      refine EpochUnit.evaluated_of_not_rises fun i step => ?_
      obtain ⟨y, known, level, rfl⟩ := listed _ i step
      exact fun r => h y known level (Evaluation.rises_iff.mp r)
    refine ⟨fun x known level r => ?_, fun normal still => ?_, fun x known level still => ?_⟩
    · obtain ⟨step, next, -, -⟩ := steps x known
      rw [EpochUnit.evaluated_of_rises (level ▸ step) (Evaluation.rises_iff.mpr r), level, next]
    · rw [stays fun y known level r => ?_, EpochUnit.afterFallTest_of_normal normal]
      obtain ⟨step, -, -, -⟩ := steps y known
      have first : y.2.2 = 0 := by simpa [← level, normal, Load.stepUp, eq_comm] using step
      exact still (first ▸ r)
    · obtain ⟨-, -, step, previous⟩ := steps x known
      rw [← level] at step previous
      rw [stays still]
      refine ⟨fun c => ?_, fun c last => ?_, fun c more => ?_⟩
      · exact EpochUnit.afterFallTest_of_not_calm step fun h => c (Evaluation.calm_iff.mp h)
      · rw [EpochUnit.afterFallTest_of_calm step (Evaluation.calm_iff.mpr c), if_pos last, previous]
      · rw [EpochUnit.afterFallTest_of_calm step (Evaluation.calm_iff.mpr c), if_neg (Nat.not_le.mpr more)]

/-- Refutes O52: the byte 4 is the code of no gate, yet `Gate.ofCode` reads it as the gate NONE, whose code is 0. -/
theorem not_sentFrameLayouts : ¬Obligations.SentFrameLayouts := by
  intro ⟨_, _, ⟨_, _, _, _, _, _, _, _, _, codes, _⟩, _⟩
  have gates := (codes 4).2.1
  exact absurd ((gates .none).mp (by decide)) (by decide)

end Sys2Proof.Machine
end

section
/-! Frames received (R144, R167 to R175): what the bytes of a body are read as, and that the commands of the frame rows are
read back from the frames that send them. -/

namespace Sys2Proof.Machine

/-! ### Bodies that are commands -/

section

variable (m : MasterId) (tag x : Half)

/-- R175: a kind the tables do not list. -/
theorem queryOf_of_unknown {kind : Byte} (unknown : kind.toNat = 0 ∨ 9 < kind.toNat) :
    queryOf m tag kind x = .queryUnknownKind m tag kind x := by
  unfold queryOf
  split
  case h_10 => rfl
  all_goals omega

/-- R170: a table the tables do not list. -/
theorem configOf_of_unknown {table : Byte} (unknown : table.toNat = 0 ∨ 9 < table.toNat) (index : Byte)
    (entry : List Byte) : configOf m tag table index entry = some (.configUnknownTable m tag table index) := by
  unfold configOf
  split
  case h_10 => exact if_neg (by omega)
  all_goals omega

/-- R170: a group write takes the member bytes its count needs and ignores those behind them. -/
theorem groupOf_append {index mode count : Byte} {members : List Byte} (needed : members.length = memberBytesNeeded count)
    (extra : List Byte) :
    groupOf m tag index mode count (members ++ extra) = some (.configGroup m tag index mode count members) := by
  rw [groupOf, ← needed, if_neg (by simp), List.take_left]

/-- R175: a depth the tables do not list. -/
theorem deviceClearOf_of_unknown {depth : Byte} (one : depth.toNat ≠ 1) (two : depth.toNat ≠ 2) :
    deviceClearOf m tag depth = .deviceClearUnknownDepth m tag depth := by
  unfold deviceClearOf
  split
  · contradiction
  · contradiction
  · rfl

/-- The command of a QUERY's body (R170, R175). -/
theorem commandOf_query (kind : Byte) (extra : List Byte) :
    commandOf m (0x30 :: tag.extractLsb' 8 8 :: tag.extractLsb' 0 8 :: kind :: x.extractLsb' 8 8 :: x.extractLsb' 0 8 ::
      extra) = some (queryOf m tag kind x) := by
  simp [commandOf]

/-- The command of a CONFIG's body (R170). -/
theorem commandOf_config (table index : Byte) (entry : List Byte) :
    commandOf m (0x40 :: tag.extractLsb' 8 8 :: tag.extractLsb' 0 8 :: table :: index :: entry) =
      configOf m tag table index entry := by
  simp [commandOf]

/-- The command of a DEVICE_CLEAR's body (R175). -/
theorem commandOf_deviceClear (depth : Byte) (extra : List Byte) :
    commandOf m (0x42 :: tag.extractLsb' 8 8 :: tag.extractLsb' 0 8 :: depth :: extra) =
      some (deviceClearOf m tag depth) := by
  simp [commandOf]

end

/-! ### The frames of the far ends -/

theorem memberBytesNeeded_le (count : Byte) : memberBytesNeeded count ≤ 12 := Nat.min_le_right _ _

/-- What a controller sends for a well-formed command is read as that command. -/
theorem commandOf_controllerFrame {c : Instr} {m : MasterId} {b : List Byte} (w : WellFormed c = true)
    (sent : controllerFrame c = some (m, b)) : commandOf m b = some c := by
  cases c
  case configGroup m' tag index mode count members =>
    have needed : members.length = memberBytesNeeded count := by simpa [WellFormed] using w
    obtain ⟨rfl, rfl⟩ : m' = m ∧ configBody tag 2 index (mode :: count :: members) = b := by
      simpa [controllerFrame] using sent
    have read := groupOf_append m' tag (index := index) (mode := mode) needed []
    rw [List.append_nil] at read
    exact (commandOf_config m' tag 2 index (mode :: count :: members)).trans read
  case queryUnknownKind m' tag kind index =>
    obtain ⟨rfl, rfl⟩ : m' = m ∧ queryBody tag kind index = b := by simpa [controllerFrame] using sent
    rw [show queryBody tag kind index = _ from rfl]
    exact (commandOf_query m' tag index kind []).trans
      (congrArg some (queryOf_of_unknown m' tag index (by simpa [WellFormed] using w)))
  case configUnknownTable m' tag table index =>
    obtain ⟨rfl, rfl⟩ : m' = m ∧ configBody tag table index [] = b := by simpa [controllerFrame] using sent
    exact (commandOf_config m' tag table index []).trans
      (configOf_of_unknown m' tag (by simpa [WellFormed] using w) index [])
  case deviceClearUnknownDepth m' tag depth =>
    obtain ⟨rfl, rfl⟩ : m' = m ∧ body 0x42 tag [depth] = b := by simpa [controllerFrame] using sent
    obtain ⟨one, two⟩ : depth.toNat ≠ 1 ∧ depth.toNat ≠ 2 := by simpa [WellFormed] using w
    exact (commandOf_deviceClear m' tag depth []).trans (congrArg some (deviceClearOf_of_unknown m' tag one two))
  all_goals
    simp only [controllerFrame, Option.some.injEq, Prod.mk.injEq, reduceCtorEq] at sent
  all_goals
    obtain ⟨rfl, rfl⟩ := sent
    simp [commandOf, body, bytes2, queryBody, queryOf, configBody, configOf, deviceClearOf]

theorem length_body_of_cons (type : Byte) (tag : Half) (field : Byte) (rest : List Byte) :
    (body type tag (field :: rest)).length = rest.length + 4 := by
  have long : ¬(type :: bytes2 tag ++ field :: rest).length < 4 := by simp; omega
  rw [body, if_neg long]
  simp; omega

/-- What a controller sends is a body of 4 to 60 bytes. -/
theorem length_controllerFrame {c : Instr} {m : MasterId} {b : List Byte} (w : WellFormed c = true)
    (sent : controllerFrame c = some (m, b)) : 4 ≤ b.length ∧ b.length ≤ 60 := by
  cases c
  case configGroup m' tag index mode count members =>
    have needed : members.length = memberBytesNeeded count := by simpa [WellFormed] using w
    have few := memberBytesNeeded_le count
    obtain ⟨rfl, rfl⟩ : m' = m ∧ configBody tag 2 index (mode :: count :: members) = b := by
      simpa [controllerFrame] using sent
    have length := length_body_of_cons 0x40 tag 2 (index :: mode :: count :: members)
    simp only [List.length_cons] at length
    exact length ▸ ⟨by omega, by omega⟩
  all_goals
    simp only [controllerFrame, Option.some.injEq, Prod.mk.injEq, reduceCtorEq] at sent
  all_goals
    obtain ⟨rfl, rfl⟩ := sent
    simp [body, queryBody, configBody]

/-- What the radio head sends is a body of 4 to 60 bytes that is read as the command it is sent for. -/
theorem radioCommandOf_radioHeadFrame {c : Instr} {b : List Byte} (sent : radioHeadFrame c = some b) :
    radioCommandOf b = some c ∧ 4 ≤ b.length ∧ b.length ≤ 60 := by
  cases c <;> simp only [radioHeadFrame, Option.some.injEq, reduceCtorEq] at sent
  all_goals
    subst sent
    exact ⟨by simp [radioCommandOf, body, bytes2], by simp [body], by simp [body]⟩

/-- A master link's frame whose body is read as a command. -/
theorem receive_framed {m : MasterId} {b : List Byte} {c : Instr} (read : commandOf m b = some c) (low : 4 ≤ b.length)
    (high : b.length ≤ 60) : receive m (framed b) = ([c], []) :=
  hunt_framed (commandOf m) (.frameFault m) c b low high read

/-- The radio link's. -/
theorem receiveRadio_framed {b : List Byte} {c : Instr} (read : radioCommandOf b = some c) (low : 4 ≤ b.length)
    (high : b.length ≤ 60) : receiveRadio (framed b) = ([c], []) :=
  hunt_framed radioCommandOf .radioFrameFault c b low high read

/-- Settles O53. -/
theorem receivedFramesAreTheirCommands : Obligations.ReceivedFramesAreTheirCommands := by
  refine ⟨fun c m b w sent => ?_, fun c b sent => ?_, fun c => ?_, fun c => ?_, ?_, ?_⟩
  · obtain ⟨low, high⟩ := length_controllerFrame w sent
    exact receive_framed (commandOf_controllerFrame w sent) low high
  · obtain ⟨read, low, high⟩ := radioCommandOf_radioHeadFrame sent
    exact receiveRadio_framed read low high
  · cases c <;> simp [Instr.frameOn, Instr.queryFields, Instr.needsRight, controllerFrame]
  · cases c <;> simp [Instr.isRadioFrame, radioHeadFrame]
  · intro m tag x y z w v index a b c d e f g hi lo reads query config
    have read {body : List Byte} {i : Instr}
        (h : ∀ extra, 4 ≤ (body ++ extra).length → commandOf m (body ++ extra) = some i) : reads body i :=
      fun extra low high => receive_framed (h extra low) low high
    have queried {kind : Byte} {i : Instr} (h : queryOf m tag kind x = i) : reads (query kind) i :=
      read fun extra _ => (commandOf_query m tag x kind extra).trans (congrArg some h)
    have configured {table : Byte} {entry : List Byte} {i : Instr}
        (h : ∀ extra, configOf m tag table index (entry ++ extra) = some i) : reads (config table entry) i :=
      read fun extra _ => (commandOf_config m tag table index (entry ++ extra)).trans (h extra)
    have cleared {depth : Byte} {i : Instr} (h : deviceClearOf m tag depth = i) : reads [0x42, hi tag, lo tag, depth] i :=
      read fun extra _ => (commandOf_deviceClear m tag depth extra).trans (congrArg some h)
    refine ⟨read fun extra _ => rfl, read fun extra low => ?_, read fun extra _ => ?_, read fun extra _ => ?_,
      read fun extra _ => ?_, read fun extra _ => ?_, queried rfl, queried rfl, queried rfl, queried rfl, queried rfl,
      queried rfl, queried rfl, queried rfl, queried rfl, fun unknown => queried (queryOf_of_unknown m tag x unknown),
      configured fun extra => ?_, fun members needed => configured fun extra => groupOf_append m tag needed extra,
      configured fun extra => ?_, configured fun extra => ?_, configured fun extra => rfl, configured fun extra => rfl,
      configured fun extra => ?_, configured fun extra => rfl, configured fun extra => ?_,
      fun unknown => configured fun extra => configOf_of_unknown m tag unknown index _,
      read fun extra _ => ?_, cleared rfl, cleared rfl,
      fun ⟨one, two⟩ => cleared (deviceClearOf_of_unknown m tag one two), read fun extra _ => ?_⟩
    case refine_1 =>
      cases extra with
      | nil => simp at low
      | cons filler rest => simp [commandOf]
    all_goals simp [commandOf, configOf, hi, lo]
  · intro tag available carrier number hi lo reads
    have read {body : List Byte} {c : Instr}
        (h : ∀ extra, 4 ≤ (body ++ extra).length → radioCommandOf (body ++ extra) = some c) : reads body c :=
      fun extra low high => receiveRadio_framed (h extra low) low high
    refine ⟨read fun extra low => ?_, read fun extra _ => ?_, read fun extra _ => rfl⟩
    · cases extra with
      | nil => simp at low
      | cons filler rest => simp [radioCommandOf, hi, lo]
    · simp [radioCommandOf, hi, lo]

end Sys2Proof.Machine
end

section
/-! What claims leave alone (R12, R62): each is `Works`, and an ADMIT besides steps at most the thinning counter of its
master and code. -/

namespace Sys2Proof.Machine

namespace State

/-- The code names the class that the intake finds for it. -/
theorem val_of_classOf {s : State} {code : Byte} {c : Fin 64} {k : ServiceClass} (h : s.classOf code = some (c, k)) :
    c.val = code.toNat := by
  unfold classOf at h
  split at h
  · cases h
  · next c' named =>
    split_ifs at h
    cases h
    exact numberBelow_eq_some_iff.mp named

variable (s : State) (m : MasterId) (tag : Half)

theorem works_intakePending (c : Fin 64) (k : ServiceClass) (u : Nat) (mode : AdmitMode) :
    Works s (s.intakePending m tag c k u mode) ∨ Works (s.stepThinning m c) (s.intakePending m tag c k u mode) := by
  unfold intakePending
  split_ifs
  · exact .inl (works_refuse _ _ _ _)
  · exact .inl (works_refuse _ _ _ _)
  · exact .inl (works_refuse _ _ _ _)
  · exact .inr (works_handOn _ _ _ _ _ _ _)
  · exact .inr (works_refuse _ _ _ _)
  · exact .inl (works_handOn _ _ _ _ _ _ _)

theorem works_serveAdmit (code units mode : Byte) :
    Works s (s.serveAdmit m tag code units mode) ∨
      ∃ c : Fin 64, c.val = code.toNat ∧ Works (s.stepThinning m c) (s.serveAdmit m tag code units mode) := by
  unfold serveAdmit
  split
  · exact .inl (works_refuse _ _ _ _)
  · next c k found =>
    have arrived : Works s (s.reportArrival k.level) := .counters .refl _
    have stepped : Works (s.stepThinning m c) ((s.stepThinning m c).reportArrival k.level) :=
      .counters .refl _
    have swap : (s.stepThinning m c).reportArrival k.level = (s.reportArrival k.level).stepThinning m c := rfl
    rw [swap] at stepped
    simp only
    split_ifs
    · exact .inl (arrived.trans (works_refuse _ _ _ _))
    · split
      · exact .inl (arrived.trans (works_refuse _ _ _ _))
      · next x _ =>
        rcases works_intakePending (s.reportArrival k.level) m tag c k units.toNat x with h | h
        · exact .inl (arrived.trans h)
        · exact .inr ⟨c, val_of_classOf found, stepped.trans h⟩

theorem thinning_stepThinning_other {c : Fin 64} {j : MasterId} {k : Fin 64} (h : j ≠ m ∨ k ≠ c) :
    look (look (s.stepThinning m c).intake.thinning j) k = look (look s.intake.thinning j) k := by
  change look (look (put s.intake.thinning m _) j) k = _
  by_cases same : j = m
  · subst same
    rw [look_put_same, look_put_ne _ (h.resolve_left fun n => n rfl)]
  · rw [look_put_ne _ same]

end State

/-- Settles O60. -/
theorem claimsKeepTheSkeleton : Obligations.ClaimsKeepTheSkeleton := by
  intro c m tag x handle s
  refine ⟨fun frame => ?_, fun expiry => ?_, fun code units mode frame => ?_⟩
  · rcases frame with rfl | rfl | rfl
    · exact ⟨_, rfl, fun serves => (State.onFrame_of_serves serves _ _).symm ▸ (State.works_commitFrame _ _ _ _).skeleton⟩
    · exact ⟨_, rfl, fun serves => (State.onFrame_of_serves serves _ _).symm ▸ (State.works_releaseFrame _ _ _ _).skeleton⟩
    · exact ⟨_, rfl, fun serves => (State.onFrame_of_serves serves _ _).symm ▸ (State.works_serveCancel _ _ _ _).skeleton⟩
  · rcases expiry with rfl | rfl | rfl
    · exact ⟨_, rfl, (State.works_expireHold _ _).skeleton⟩
    · exact ⟨_, rfl, (State.works_expireRecall _ _).skeleton⟩
    · exact ⟨_, rfl, (State.works_expireWait _ _ _).skeleton⟩
  · subst frame
    refine ⟨_, rfl, fun serves => ?_⟩
    rw [State.onFrame_of_serves serves]
    have kept : (s.wake m).intake = s.intake := by rw [State.wake_eq]
    rcases State.works_serveAdmit (s.wake m) m tag code units mode with w | ⟨c, named, w⟩
    · have intake := intake_of_skeleton w.skeleton
      rw [w.skeleton, intake, kept]
      refine ⟨?_, fun j k _ => rfl⟩
      rw [← kept]
      rfl
    · have intake := intake_of_skeleton w.skeleton
      rw [w.skeleton, intake]
      refine ⟨?_, fun j k other => ?_⟩
      · rw [← kept]
        rfl
      · rw [State.thinning_stepThinning_other _ _ (other.imp_right fun n e => n (by rw [e, named])), kept]

end Sys2Proof.Machine
end

section
/-! The Recall Unit: a grant recalled for a case (R93), the opening of a case and a direct admission (R91, R92), and how a
case ends (R95, R101, R102, R105). -/

namespace Sys2Proof.Machine

namespace State

variable {s : State} {h : Handle} {g : Grant} {k : CaseId} {x : Case}

theorem recallGrant_of_grantAt (named : s.grantAt h = some g) (cause : RecallCause) (j : Option CaseId) :
    s.recallGrant h cause j =
      ((s.setGrant h { g with phase := .recalled cause (s.now + (s.master g.owner).releaseDeadline) j }).offer g.owner
        (.recallNotice h cause (s.master g.owner).releaseDeadline)).countRecalled g.owner := by
  rw [recallGrant, named]

/-- An offer does not read the Grant Table. -/
theorem offer_withTable (s : State) (table : GrantTable) (m : MasterId) (f : OutFrame) :
    { s with table := table }.offer m f = { s with table := table, ports := (s.offer m f).ports } := by
  rw [offer_eq_modPort, offer_eq_modPort]
  rfl

/-- A grant recalled, field by field. -/
theorem recallGrant_eq (named : s.grantAt h = some g) (cause : RecallCause) (j : Option CaseId) :
    s.recallGrant h cause j =
      { s with
        table := { s.table with entries := put s.table.entries h.index ⟨h.gen, some { g with
          phase := .recalled cause (s.now + (s.master g.owner).releaseDeadline) j }⟩ }
        ports := (s.offer g.owner (.recallNotice h cause (s.master g.owner).releaseDeadline)).ports
        responder := { s.responder with
          stats := put s.responder.stats g.owner
            { look s.responder.stats g.owner with recalled := (look s.responder.stats g.owner).recalled + 1 } } } := by
  rw [recallGrant_of_grantAt named, setGrant_of_grantAt named, offer_withTable]
  rfl

/-- A grant recalled for a case, field by field. -/
theorem recallFor_eq (named : s.grantAt h = some g) (collecting : s.caseAt k = some x) :
    s.recallFor k h =
      { s.recallGrant h .preempt (some k) with recallUnit := { s.recallUnit with
        cases := put s.recallUnit.cases k (some { x with victims := x.victims ++ [⟨h, g.units, .notified⟩] }) } } := by
  have units : s.unitsAt h = g.units := by rw [unitsAt, named]
  have unit : (s.recallGrant h .preempt (some k)).recallUnit = s.recallUnit := by rw [recallGrant_eq named]
  have same : (s.recallGrant h .preempt (some k)).caseAt k = some x := by
    rw [caseAt, unit]
    exact collecting
  rw [recallFor, modCase_of_some same, unit, units]

end State

/-- Settles O38. -/
theorem recallForACase : Obligations.RecallForACase := by
  refine ⟨?_, ?_⟩
  · intro k x h g s named collecting t deadline
    have whole : t = _ := State.recallFor_eq named collecting
    rw [State.recallGrant_eq named] at whole
    clear_value t
    subst whole
    refine ⟨rfl, look_put_same _ _ _, fun j other => look_put_ne _ other _, rfl, rfl, rfl, rfl, rfl, rfl, rfl⟩
  · intro k r p s filled gathered aged told broken granted
    refine ⟨fun openedAt => rfl, rfl, ?_⟩
    change granted.addDue p.target = _
    rw [State.addDue_eq]
    split_ifs <;> rfl

namespace State

variable {s : State} {k : CaseId} {x : Case}

theorem trySettle_of_short (collecting : s.caseAt k = some x) (short : x.earmark < x.req.units) : s.trySettle k = s := by
  rw [trySettle, collecting]
  exact if_pos short

theorem trySettle_of_room (collecting : s.caseAt k = some x) (filled : ¬x.earmark < x.req.units)
    (room : s.tableHasRoom x.req.level = true) : s.trySettle k = s.settle k x := by
  rw [trySettle, collecting]
  simp only [if_neg filled, if_pos room]

theorem trySettle_of_full (collecting : s.caseAt k = some x) (filled : ¬x.earmark < x.req.units)
    (full : ¬s.tableHasRoom x.req.level = true) : s.trySettle k = s.closeWithoutGrant k x := by
  rw [trySettle, collecting]
  simp only [if_neg filled, if_neg full]

@[simp] theorem caseAt_returnUnits (s : State) (c : CarrierId) (u : Nat) (j : CaseId) :
    (s.returnUnits c u).caseAt j = s.caseAt j := by
  rw [returnUnits_eq]
  rfl

@[simp] theorem caseAt_freeCase_same (s : State) (k : CaseId) : (s.freeCase k).caseAt k = none := look_put_same _ _ _

theorem caseAt_joinHead (s : State) (r : Request) (j : CaseId) : (s.joinHead r).caseAt j = s.caseAt j := by
  rw [joinHead, announceWaiting, reportQueued_offer, offer_eq_ports]
  cases r.level <;> rfl

theorem caseAt_settle (s : State) (k : CaseId) (x : Case) : (s.settle k x).caseAt k = none := by
  rw [settle, caseAt_returnUnits, caseAt_freeCase_same]

theorem caseAt_refuse (s : State) (m : MasterId) (tag : Half) (o : AnswerCode) (j : CaseId) :
    (s.refuse m tag o).caseAt j = s.caseAt j := by
  rw [refuse_eq, offer_eq_ports]
  rfl

theorem caseAt_closeWithoutGrant (s : State) (k : CaseId) (x : Case) : (s.closeWithoutGrant k x).caseAt k = none := by
  have ends : s.closeWithoutGrant k x =
      if (((s.detachAll k x).freeCase k).returnUnits x.target x.earmark).storeHasSpace x.req.level then
        (((s.detachAll k x).freeCase k).returnUnits x.target x.earmark).joinHead x.req
      else (((s.detachAll k x).freeCase k).returnUnits x.target x.earmark).refuse x.req.owner x.req.tag .tableFull := rfl
  rw [ends]
  split_ifs
  · rw [caseAt_joinHead, caseAt_returnUnits, caseAt_freeCase_same]
  · rw [caseAt_refuse, caseAt_returnUnits, caseAt_freeCase_same]

/-- A case that has what it needs ends. -/
theorem caseAt_trySettle (collecting : s.caseAt k = some x) (filled : ¬x.earmark < x.req.units) :
    (s.trySettle k).caseAt k = none := by
  by_cases room : s.tableHasRoom x.req.level = true
  · rw [trySettle_of_room collecting filled room, caseAt_settle]
  · rw [trySettle_of_full collecting filled room, caseAt_closeWithoutGrant]

/-- What the end of a case leaves of the waiting store. -/
theorem waiting_closing (s : State) (k : CaseId) (x : Case) :
    (((s.detachAll k x).freeCase k).returnUnits x.target x.earmark).waiting = s.waiting := by
  rw [returnUnits_eq, detachAll_eq_table]
  rfl

theorem storeHasSpace_congr {s t : State} (h : t.waiting = s.waiting) (l : Level) :
    t.storeHasSpace l = s.storeHasSpace l := by
  have priority : t.priorityCount = s.priorityCount := by rw [priorityCount, priorityCount, h]
  have all : t.storeCount = s.storeCount := by rw [storeCount, storeCount, priority, h]
  rw [Bool.eq_iff_iff, storeHasSpace_iff, storeHasSpace_iff, priority, all]

end State

/-- An entry once its grant has lost the case `k` (R105). -/
def Entry.detached (k : CaseId) (e : Entry) : Entry :=
  match e.grant with
  | none => e
  | some g =>
    match g.phase with
    | .recalled cause d (some j) =>
      if j = k then { e with grant := some { g with phase := .recalled cause d none } } else e
    | .recalled _ _ none | .held _ | .active | .revoked _ => e

namespace Entry

variable {k : CaseId} {e : Entry}

theorem detached_of_attached {g : Grant} {cause : RecallCause} {d : Time} (holds : e.grant = some g)
    (attached : g.phase = .recalled cause d (some k)) :
    e.detached k = { e with grant := some { g with phase := .recalled cause d none } } := by
  rw [detached, holds]
  simp only [attached, if_true]

theorem detached_of_not
    (free : ∀ g cause d, e.grant = some g → g.phase ≠ .recalled cause d (some k)) : e.detached k = e := by
  unfold detached
  split
  · rfl
  · next g holds =>
    split
    · next cause d j phase =>
      have other : j ≠ k := fun same => free g cause d holds (by rw [phase, same])
      rw [if_neg other]
    all_goals rfl

@[simp] theorem gen_detached (k : CaseId) (e : Entry) : (e.detached k).gen = e.gen := by
  unfold detached
  split
  · rfl
  · split
    · split_ifs <;> rfl
    all_goals rfl

@[simp] theorem detached_detached (k : CaseId) (e : Entry) : (e.detached k).detached k = e.detached k := by
  by_cases attached : ∃ g cause d, e.grant = some g ∧ g.phase = .recalled cause d (some k)
  · obtain ⟨g, cause, d, holds, phase⟩ := attached
    rw [detached_of_attached holds phase]
    exact detached_of_not fun g' cause' d' e' p => by cases e'; cases p
  · rw [detached_of_not (e := e) fun g cause d holds phase => attached ⟨g, cause, d, holds, phase⟩]
    exact detached_of_not fun g cause d holds phase => attached ⟨g, cause, d, holds, phase⟩

end Entry

namespace State

theorem setEntry_look (s : State) (i : GrantIndex) : s.setEntry i (look s.table.entries i) = s := by
  rw [setEntry, put_look]

/-- Detaching one victim writes its entry alone. -/
theorem detachVictim_eq (k : CaseId) (s : State) (v : Victim) :
    detachVictim k s v =
      if v.state = .notified ∧ (look s.table.entries v.handle.index).gen = v.handle.gen then
        s.setEntry v.handle.index ((look s.table.entries v.handle.index).detached k)
      else s := by
  cases notified : v.state
  case released => simp [detachVictim, notified]
  case revoked => simp [detachVictim, notified]
  by_cases gen : (look s.table.entries v.handle.index).gen = v.handle.gen
  case neg => simp [detachVictim, notified, grantAt, gen]
  rw [if_pos ⟨rfl, gen⟩]
  have named : s.grantAt v.handle = (look s.table.entries v.handle.index).grant := if_pos gen
  by_cases attached : ∃ g cause d, (look s.table.entries v.handle.index).grant = some g ∧
      g.phase = .recalled cause d (some k)
  · obtain ⟨g, cause, d, holds, phase⟩ := attached
    rw [Entry.detached_of_attached holds phase]
    simp only [detachVictim, notified, named, holds, phase, if_true]
    rfl
  · have free : ∀ g cause d, (look s.table.entries v.handle.index).grant = some g →
        g.phase ≠ .recalled cause d (some k) := fun g cause d holds phase => attached ⟨g, cause, d, holds, phase⟩
    rw [Entry.detached_of_not free, setEntry_look, detachVictim, notified, named]
    simp only
    split
    · rfl
    · next g holds =>
      split
      · next cause d j phase =>
        have other : j ≠ k := fun same => free g cause d holds (by rw [phase, same])
        rw [if_neg other]
      all_goals rfl

/-- Detaching the victims of a list, entry by entry: those whose handle the list holds as NOTIFIED. -/
theorem entries_detachVictims (k : CaseId) (l : List Victim) (s : State) (i : GrantIndex) :
    look (l.foldl (detachVictim k) s).table.entries i =
      if ∃ v ∈ l, v.handle = ⟨(look s.table.entries i).gen, i⟩ ∧ v.state = .notified then
        (look s.table.entries i).detached k
      else look s.table.entries i := by
  induction l generalizing s with
  | nil => rfl
  | cons v rest ih =>
    have step : look (detachVictim k s v).table.entries i =
        if v.handle = ⟨(look s.table.entries i).gen, i⟩ ∧ v.state = .notified then (look s.table.entries i).detached k
        else look s.table.entries i := by
      rw [detachVictim_eq]
      by_cases here : v.handle.index = i
      · subst here
        by_cases named : v.state = .notified ∧ (look s.table.entries v.handle.index).gen = v.handle.gen
        · obtain ⟨notified, gen⟩ := named
          rw [if_pos ⟨notified, gen⟩, if_pos ⟨by rw [gen], notified⟩]
          exact look_put_same _ _ _
        · rw [if_neg named, if_neg fun h => named ⟨h.2, (congrArg Handle.gen h.1).symm⟩]
      · have other : ¬(v.handle = ⟨(look s.table.entries i).gen, i⟩ ∧ v.state = .notified) :=
          fun h => here (congrArg Handle.index h.1)
        rw [if_neg other]
        split_ifs
        · exact look_put_ne _ (Ne.symm here) _
        · rfl
    have gen : (look (detachVictim k s v).table.entries i).gen = (look s.table.entries i).gen := by
      rw [step]
      split_ifs <;> simp
    rw [List.foldl_cons, ih, gen, step]
    by_cases first : v.handle = ⟨(look s.table.entries i).gen, i⟩ ∧ v.state = .notified <;> simp [first]

/-- Detaching writes the entries of the Grant Table alone. -/
theorem detachAll_eq_entries (s : State) (k : CaseId) (x : Case) :
    s.detachAll k x = { s with table := { s.table with entries := (s.detachAll k x).table.entries } } := by
  have fold (l : List Victim) (t : State) :
      l.foldl (detachVictim k) t =
        { t with table := { t.table with entries := (l.foldl (detachVictim k) t).table.entries } } := by
    induction l generalizing t with
    | nil => rfl
    | cons v rest ih =>
      rw [List.foldl_cons, ih, detachVictim_eq]
      split_ifs <;> rfl
  exact fold x.victims s

end State

/-- Settles O39: by the earmark, the entries free and the space in the store; detaching entry by entry. -/
theorem settlingACase : Obligations.SettlingACase := by
  intro k x s collecting entries detached closed space notified
  have room : s.tableHasRoom x.req.level = true ↔ ¬s.table.freeQueue.length < entries := s.tableHasRoom_iff x.req.level
  have stored : closed.storeHasSpace x.req.level = true ↔ space := by
    rw [State.storeHasSpace_congr (s.waiting_closing k x), State.storeHasSpace_iff]
  have entry (i : GrantIndex) : look detached.table.entries i =
      if notified ⟨(look s.table.entries i).gen, i⟩ then (look s.table.entries i).detached k
      else look s.table.entries i := s.entries_detachVictims k x.victims i
  have without (filled : x.req.units ≤ x.earmark) (full : s.table.freeQueue.length < entries) :
      s.trySettle k =
        if closed.storeHasSpace x.req.level then closed.joinHead x.req
        else closed.refuse x.req.owner x.req.tag .tableFull :=
    State.trySettle_of_full collecting (Nat.not_lt.mpr filled) fun h => room.mp h full
  refine ⟨State.trySettle_of_short collecting, fun filled => State.caseAt_trySettle collecting (Nat.not_lt.mpr filled),
    fun filled free => State.trySettle_of_room collecting (Nat.not_lt.mpr filled) (room.mpr (Nat.not_lt.mpr free)),
    fun filled full fits => ?_, fun filled full not_fits => ?_, s.detachAll_eq_entries k x,
    fun h g cause d named grant attached => ?_, fun i free => ?_, fun u => ⟨rfl, rfl⟩, fun c n u => ?_⟩
  · rw [without filled full, if_pos (stored.mpr fits)]
  · rw [without filled full, if_neg fun h => not_fits (stored.mp h), State.refuse_eq]
  · obtain ⟨gen, holds⟩ := State.grantAt_eq_some_iff.mp grant
    rw [entry, gen, if_pos named, Entry.detached_of_attached holds attached, gen]
  · rw [entry]
    split_ifs with named
    · exact Entry.detached_of_not fun g cause d holds attached => free g cause d holds attached named
    · rfl
  · rw [State.returnUnits_eq]
    split_ifs <;> rfl

end Sys2Proof.Machine
end

section
/-! The choice of a case attempt (R89, R90): what is taken in order until the need is reached, on the first member that can
give it. -/

namespace Sys2Proof.Machine

/-! ### Taking grants until a need is reached -/

section

variable {need : Nat}

@[simp] theorem unitsOf_nil : unitsOf [] = 0 := rfl

@[simp] theorem unitsOf_cons (g : Listed) (l : List Listed) : unitsOf (g :: l) = g.2.units + unitsOf l := rfl

theorem takeUntil_of_reached {n : Nat} (h : need ≤ n) (l : List Listed) : takeUntil need n l = [] := by
  cases l with
  | nil => rfl
  | cons g rest => exact if_pos h

theorem takeUntil_cons_of_short {n : Nat} (h : ¬need ≤ n) (g : Listed) (rest : List Listed) :
    takeUntil need n (g :: rest) = g :: takeUntil need (n + g.2.units) rest := if_neg h

theorem takeUntil_prefix (n : Nat) (l : List Listed) : takeUntil need n l <+: l := by
  induction l generalizing n with
  | nil => exact List.nil_prefix
  | cons g rest ih =>
    by_cases h : need ≤ n
    · rw [takeUntil_of_reached h]
      exact List.nil_prefix
    · rw [takeUntil_cons_of_short h]
      exact List.prefix_cons_inj g |>.mpr (ih _)

/-- What is taken reaches the need when all together does. -/
theorem le_takeUntil_iff (n : Nat) (l : List Listed) :
    need ≤ n + unitsOf (takeUntil need n l) ↔ need ≤ n + unitsOf l := by
  induction l generalizing n with
  | nil => rfl
  | cons g rest ih =>
    by_cases h : need ≤ n
    · rw [takeUntil_of_reached h]
      simp only [unitsOf_nil]
      omega
    · rw [takeUntil_cons_of_short h]
      have := ih (n + g.2.units)
      simp only [unitsOf_cons]
      omega

/-- When what is taken falls short, all has been taken. -/
theorem takeUntil_of_short {n : Nat} {l : List Listed} (short : n + unitsOf (takeUntil need n l) < need) :
    takeUntil need n l = l := by
  induction l generalizing n with
  | nil => rfl
  | cons g rest ih =>
    by_cases h : need ≤ n
    · rw [takeUntil_of_reached h, unitsOf_nil] at short
      omega
    · rw [takeUntil_cons_of_short h] at short ⊢
      rw [unitsOf_cons] at short
      rw [ih (by omega)]

/-- Without the last one taken the need is not reached. -/
theorem lt_of_takeUntil_concat {n : Nat} {l before : List Listed} {last : Listed}
    (taken : takeUntil need n l = before ++ [last]) : n + unitsOf before < need := by
  induction l generalizing n before with
  | nil => simp [takeUntil] at taken
  | cons g rest ih =>
    by_cases h : need ≤ n
    · rw [takeUntil_of_reached h] at taken
      simp at taken
    · rw [takeUntil_cons_of_short h] at taken
      cases before with
      | nil => simpa using h
      | cons b before =>
        rw [List.cons_append, List.cons.injEq] at taken
        obtain ⟨rfl, taken⟩ := taken
        have := ih taken
        rw [unitsOf_cons]
        omega

end

namespace State

variable {s : State} {c : CarrierId} {l : Level} {r : Request}

/-! ### The grants of a carrier, youngest first -/

/-- The handles on a carrier's list, youngest first, whose grants satisfy `q`. -/
def listedBy (s : State) (c : CarrierId) (q : Grant → Bool) : List Handle :=
  (s.carrier c).occupancy.reverse.filter fun h => (s.grantAt h).any q

theorem handles_youngestFirst (q : Grant → Bool) :
    ((s.youngestFirst c).filter fun g => q g.2).map Prod.fst = s.listedBy c q := by
  unfold youngestFirst listedBy
  induction (s.carrier c).occupancy.reverse with
  | nil => rfl
  | cons h rest ih =>
    cases grant : s.grantAt h with
    | none => simp [grant, ih]
    | some g => by_cases holds : q g = true <;> simp [grant, holds, ih]

theorem mem_youngestFirst {x : Listed} (h : x ∈ s.youngestFirst c) :
    x.1 ∈ (s.carrier c).occupancy ∧ s.grantAt x.1 = some x.2 := by
  simp only [youngestFirst, List.mem_filterMap, List.mem_reverse, Option.map_eq_some_iff] at h
  obtain ⟨k, listed, g, named, rfl⟩ := h
  exact ⟨listed, named⟩

theorem mem_lowestFirst {x : Listed} {l : List Listed} (h : x ∈ lowestFirst l) : x ∈ l := by
  simp only [lowestFirst, List.mem_append, List.mem_filter] at h
  obtain (h | h) | h := h <;> exact h.1

theorem mem_aboveFirst {x : Listed} {l : List Listed} (h : x ∈ s.aboveFirst l) : x ∈ l := by
  simp only [aboveFirst, List.mem_append, List.mem_filter] at h
  obtain h | h := h <;> exact h.1

/-- A hold that may be broken for a level. -/
theorem mem_breakableHolds {x : Listed} (h : x ∈ s.breakableHolds c l) :
    x.1 ∈ (s.carrier c).occupancy ∧ s.grantAt x.1 = some x.2 ∧ l.rank < x.2.level.rank ∧ x.2.phase.isHeld = true := by
  have listed := mem_lowestFirst h
  simp only [List.mem_filter, Bool.and_eq_true, Level.lowerThan, decide_eq_true_eq] at listed
  obtain ⟨mem, held, lower⟩ := listed
  obtain ⟨occupies, named⟩ := mem_youngestFirst mem
  exact ⟨occupies, named, lower, held⟩

/-- A grant that may be recalled for a level. -/
theorem mem_recallableGrants {x : Listed} (h : x ∈ s.recallableGrants c l) :
    x.1 ∈ (s.carrier c).occupancy ∧ s.grantAt x.1 = some x.2 ∧ l.rank < x.2.level.rank ∧ x.2.phase.isActive = true := by
  have listed := mem_aboveFirst (mem_lowestFirst h)
  simp only [List.mem_filter, Bool.and_eq_true, Level.lowerThan, decide_eq_true_eq] at listed
  obtain ⟨mem, active, lower⟩ := listed
  obtain ⟨occupies, named⟩ := mem_youngestFirst mem
  exact ⟨occupies, named, lower, active⟩

/-- The units of grants listed with their handles. -/
theorem unitsOf_eq {x : List Listed} (named : ∀ g ∈ x, s.grantAt g.1 = some g.2) :
    unitsOf x = ((x.map Prod.fst).map s.unitsAt).sum := by
  induction x with
  | nil => rfl
  | cons g rest ih =>
    rw [List.forall_mem_cons] at named
    obtain ⟨first, others⟩ := named
    rw [unitsOf_cons, ih others, List.map_cons, List.map_cons, List.sum_cons, unitsAt, first]

/-- Grants of a level of those strictly lower than `l`. -/
def ofLevel (s : State) (c : CarrierId) (l level : Level) (p : Grant → Bool) : List Handle :=
  s.listedBy c fun g => decide (g.level = level) && decide (l.rank < level.rank) && p g

theorem handles_ofLevel (level : Level) (p : Grant → Bool) :
    (((s.youngestFirst c).filter fun g => p g.2 && g.2.level.lowerThan l).filter fun g => g.2.level = level).map Prod.fst =
      s.ofLevel c l level p := by
  rw [List.filter_filter, ofLevel, ← handles_youngestFirst]
  refine congrArg _ (List.filter_congr fun g _ => ?_)
  by_cases same : g.2.level = level
  · simp [same, Level.lowerThan, Bool.and_comm]
  · simp [same]

/-- R90: the holds in the order they are broken. -/
theorem handles_breakableHolds : (s.breakableHolds c l).map Prod.fst =
    s.ofLevel c l .p3 (fun g => g.phase.isHeld) ++ s.ofLevel c l .p2 (fun g => g.phase.isHeld) ++
      s.ofLevel c l .p1 fun g => g.phase.isHeld := by
  simp only [breakableHolds, lowestFirst, List.map_append, ← handles_ofLevel]

/-- R20, R90: the grants in the order they are recalled, those of masters above their guarantee first. -/
theorem handles_recallableGrants : (s.recallableGrants c l).map Prod.fst =
    (s.ofLevel c l .p3 (fun g => g.phase.isActive && s.aboveGuarantee g.owner) ++
      s.ofLevel c l .p3 (fun g => g.phase.isActive && !s.aboveGuarantee g.owner)) ++
    (s.ofLevel c l .p2 (fun g => g.phase.isActive && s.aboveGuarantee g.owner) ++
      s.ofLevel c l .p2 (fun g => g.phase.isActive && !s.aboveGuarantee g.owner)) ++
    (s.ofLevel c l .p1 (fun g => g.phase.isActive && s.aboveGuarantee g.owner) ++
      s.ofLevel c l .p1 fun g => g.phase.isActive && !s.aboveGuarantee g.owner) := by
  have part (q : MasterId → Bool) (level : Level) :
      ((((s.youngestFirst c).filter fun g => g.2.phase.isActive && g.2.level.lowerThan l).filter fun g =>
        q g.2.owner).filter fun g => g.2.level = level).map Prod.fst =
      s.ofLevel c l level fun g => g.phase.isActive && q g.owner := by
    have both : ((s.youngestFirst c).filter fun g => g.2.phase.isActive && g.2.level.lowerThan l).filter
        (fun g => q g.2.owner) =
        (s.youngestFirst c).filter fun g => (g.2.phase.isActive && q g.2.owner) && g.2.level.lowerThan l := by
      rw [List.filter_filter]
      refine List.filter_congr fun g _ => ?_
      cases q g.2.owner <;> simp
    rw [both, ← handles_ofLevel]
  have below (level : Level) := part (fun m => !s.aboveGuarantee m) level
  have above (level : Level) := part s.aboveGuarantee level
  simp only [recallableGrants, lowestFirst, aboveFirst, List.filter_append, List.map_append, above, below]

/-! ### The plan on a member -/

/-- The holds that an attempt breaks on a carrier. -/
def chosenHolds (s : State) (r : Request) (c : CarrierId) : List Listed :=
  takeUntil r.units (s.room c r.level) (s.breakableHolds c r.level)

/-- The grants that an attempt recalls on a carrier. -/
def chosenVictims (s : State) (r : Request) (c : CarrierId) : List Listed :=
  takeUntil r.units (s.room c r.level + unitsOf (s.chosenHolds r c)) ((s.recallableGrants c r.level).take 4)

theorem eligible_iff : s.eligible c = true ↔ (s.carrier c).state = .opened ∧ (s.carrier c).isOver = false := by
  simp [eligible]

theorem planOn_of_closed (closed : ¬s.eligible c = true) : s.planOn r c = none := if_neg closed

theorem planOn_eq (takes : s.eligible c = true) :
    s.planOn r c =
      if r.units ≤ s.room c r.level + unitsOf (s.chosenHolds r c) + unitsOf (s.chosenVictims r c) then
        some
          { target := c, room := s.room c r.level, holds := (s.chosenHolds r c).map Prod.fst,
            victims := (s.chosenVictims r c).map Prod.fst,
            direct := decide (r.units ≤ s.room c r.level + unitsOf (s.chosenHolds r c)) }
      else none := if_pos takes

theorem mem_chosenHolds {x : Listed} (h : x ∈ s.chosenHolds r c) : x ∈ s.breakableHolds c r.level :=
  (takeUntil_prefix _ _).subset h

theorem mem_chosenVictims {x : Listed} (h : x ∈ s.chosenVictims r c) : x ∈ s.recallableGrants c r.level :=
  List.mem_of_mem_take ((takeUntil_prefix _ _).subset h)

/-- R90: the attempt on a member succeeds when all that may be taken there reaches the need. -/
theorem reaches_iff :
    r.units ≤ s.room c r.level + unitsOf (s.chosenHolds r c) + unitsOf (s.chosenVictims r c) ↔
      r.units ≤ s.room c r.level + unitsOf (s.breakableHolds c r.level) +
        unitsOf ((s.recallableGrants c r.level).take 4) := by
  rw [chosenVictims, le_takeUntil_iff]
  by_cases covered : r.units ≤ s.room c r.level + unitsOf (s.chosenHolds r c)
  · have all := (le_takeUntil_iff _ _).mp covered
    omega
  · rw [chosenHolds, takeUntil_of_short (Nat.lt_of_not_le covered)]

theorem unitsOf_breakableHolds (s : State) (c : CarrierId) (l : Level) :
    unitsOf (s.breakableHolds c l) = (((s.breakableHolds c l).map Prod.fst).map s.unitsAt).sum :=
  unitsOf_eq fun _ h => (mem_breakableHolds h).2.1

theorem unitsOf_chosenHolds {x : List Listed} (h : ∀ g ∈ x, g ∈ s.chosenHolds r c) :
    unitsOf x = ((x.map Prod.fst).map s.unitsAt).sum :=
  unitsOf_eq fun g mem => (mem_breakableHolds (mem_chosenHolds (h g mem))).2.1

theorem unitsOf_chosenVictims {x : List Listed} (h : ∀ g ∈ x, g ∈ s.chosenVictims r c) :
    unitsOf x = ((x.map Prod.fst).map s.unitsAt).sum :=
  unitsOf_eq fun g mem => (mem_recallableGrants (mem_chosenVictims (h g mem))).2.1

/-- What was taken, when its handles end in one: the grants before it fall short of the need. -/
theorem lt_of_handles_concat {n need : Nat} {x : List Listed} {rest : List Handle} {last : Handle}
    (named : ∀ g ∈ takeUntil need n x, s.grantAt g.1 = some g.2)
    (taken : (takeUntil need n x).map Prod.fst = rest ++ [last]) : n + (rest.map s.unitsAt).sum < need := by
  obtain ⟨before, after, split, rfl, one⟩ := List.map_eq_append_iff.mp taken
  obtain ⟨g, rfl, -⟩ := List.map_eq_singleton_iff.mp one
  rw [split] at named
  rw [← unitsOf_eq fun g mem => named g (List.mem_append_left _ mem)]
  exact lt_of_takeUntil_concat split

/-! ### The attempt -/

/-- The cases in number order, at one of them. -/
theorem allCases_split (k : CaseId) :
    ∃ before after, allCases = before ++ k :: after ∧ ∀ j ∈ before, j < k := by
  have all : ∀ k : CaseId, allCases = allCases.take k.val ++ k :: allCases.drop (k.val + 1) ∧
      ∀ j ∈ allCases.take k.val, j < k := by decide
  obtain ⟨split, lower⟩ := all k
  exact ⟨_, _, split, lower⟩

theorem freeRecord_of_first {k : CaseId} (free : s.caseAt k = none) (first : ∀ j, j < k → s.caseAt j ≠ none) :
    s.freeRecord = some k := by
  obtain ⟨before, after, split, lower⟩ := allCases_split k
  rw [freeRecord, List.find?_eq_some_iff_append]
  exact ⟨by simp [free], before, after, split, fun j mem => by
    simpa [Option.isSome_iff_ne_none] using first j (lower j mem)⟩

theorem freeRecord_of_used (used : ∀ k, s.caseAt k ≠ none) : s.freeRecord = none :=
  List.find?_eq_none.mpr fun k _ => by simpa [Option.isSome_iff_ne_none] using used k

end State

/-- Settles O37: the orders written with the handles are the model's lists of grants, the plan on a member is what is
taken from them, and the attempt is the first plan found. -/
theorem caseAttemptChoice : Obligations.CaseAttemptChoice := by
  intro r s units ofLevel above holds active holdOrder activeOrder
  have listed (c : CarrierId) (l : Level) (p : Grant → Bool) : ofLevel c l p = s.ofLevel c r.level l p := by
    refine List.filter_congr fun h _ => ?_
    cases s.grantAt h <;> rfl
  have held (c : CarrierId) : holdOrder c = (s.breakableHolds c r.level).map Prod.fst := by
    have part (l : Level) : holds c l = s.ofLevel c r.level l fun g => g.phase.isHeld := by
      refine (listed c l _).trans (congrArg (s.ofLevel c r.level l) (funext fun g => ?_))
      cases g.phase <;> rfl
    rw [State.handles_breakableHolds, ← part, ← part, ← part]
  have actives (c : CarrierId) : activeOrder c = (s.recallableGrants c r.level).map Prod.fst := by
    have part (l : Level) : active c l =
        s.ofLevel c r.level l (fun g => g.phase.isActive && s.aboveGuarantee g.owner) ++
          s.ofLevel c r.level l fun g => g.phase.isActive && !s.aboveGuarantee g.owner := by
      refine congrArg₂ (· ++ ·) ?_ ?_ <;>
        refine (listed c l _).trans (congrArg (s.ofLevel c r.level l) (funext fun g => ?_)) <;>
        cases g.phase <;> rfl
    rw [State.handles_recallableGrants, ← part, ← part, ← part]
  have heldUnits (c : CarrierId) : unitsOf (s.breakableHolds c r.level) = units (holdOrder c) := by
    rw [held, s.unitsOf_breakableHolds]
  have activeUnits (c : CarrierId) :
      unitsOf ((s.recallableGrants c r.level).take 4) = units ((activeOrder c).take 4) := by
    rw [actives, ← List.map_take]
    exact State.unitsOf_eq fun g mem => (State.mem_recallableGrants (List.mem_of_mem_take mem)).2.1
  refine ⟨fun used => ?_, fun unplanned => ?_, ?_, fun k p free first plan => ?_, fun c => ?_, fun p => ?_⟩
  · rw [State.caseAttempt, State.freeRecord_of_used used]
  · rw [State.caseAttempt, unplanned]
    split <;> rfl
  · exact List.findSome?_eq_none_iff
  · rw [State.caseAttempt, State.freeRecord_of_first free first, plan]
  · by_cases takes : s.eligible c = true
    · obtain ⟨opened, under⟩ := State.eligible_iff.mp takes
      have reaches := State.reaches_iff (s := s) (c := c) (r := r)
      rw [heldUnits, activeUnits] at reaches
      rw [State.planOn_eq takes]
      by_cases enough : r.units ≤ s.room c r.level + unitsOf (s.chosenHolds r c) + unitsOf (s.chosenVictims r c)
      · simp [enough, opened, under, reaches.mp enough]
      · simp [enough, Nat.lt_of_not_le (mt reaches.mpr enough)]
    · rw [State.planOn_of_closed takes]
      rw [State.eligible_iff, not_and_or, Bool.not_eq_false] at takes
      exact iff_of_true rfl (takes.imp_right .inl)
  · intro c lower found
    obtain ⟨before, d, after, members, plan, none⟩ := List.findSome?_eq_some_iff.mp found
    have takes : s.eligible d = true := by
      by_contra closed
      rw [State.planOn_of_closed closed] at plan
      cases plan
    have drawn := State.planOn_eq (r := r) takes
    rw [plan] at drawn
    split_ifs at drawn with enough
    cases drawn
    obtain ⟨opened, under⟩ := State.eligible_iff.mp takes
    have holdUnits : unitsOf (s.chosenHolds r d) = units ((s.chosenHolds r d).map Prod.fst) :=
      State.unitsOf_chosenHolds fun _ => id
    have victimUnits : unitsOf (s.chosenVictims r d) = units ((s.chosenVictims r d).map Prod.fst) :=
      State.unitsOf_chosenVictims fun _ => id
    have reached : r.units ≤ s.room d r.level + unitsOf (s.chosenHolds r d) → s.chosenVictims r d = [] :=
      fun covered => takeUntil_of_reached covered _
    refine ⟨plan, opened, under, rfl, fun h mem => ?_, fun h mem => ?_, ?_, ?_, ?_, fun direct => ?_,
      fun rest last taken => ?_, fun rest last taken => ?_, ?_, ?_, fun some_victim => ?_,
      before, after, members, none⟩
    · obtain ⟨g, chosen, rfl⟩ := List.mem_map.mp mem
      obtain ⟨occupies, named, lower, held⟩ := State.mem_breakableHolds (State.mem_chosenHolds chosen)
      refine ⟨occupies, g.2, named, lower, held, ?_⟩
      cases phase : g.2.phase <;> simp_all [GrantPhase.isHeld, GrantPhase.isActive]
    · obtain ⟨g, chosen, rfl⟩ := List.mem_map.mp mem
      obtain ⟨occupies, named, lower, active⟩ := State.mem_recallableGrants (State.mem_chosenVictims chosen)
      refine ⟨occupies, g.2, named, lower, ?_, active⟩
      cases phase : g.2.phase <;> simp_all [GrantPhase.isHeld, GrantPhase.isActive]
    · rw [List.length_map]
      exact (takeUntil_prefix _ _).length_le.trans (List.length_take_le _ _)
    · rw [← holdUnits, ← victimUnits]
      exact enough
    · rw [← holdUnits, decide_eq_true_iff]
    · rw [reached (of_decide_eq_true direct), List.map_nil]
    · exact State.lt_of_handles_concat (fun g mem => (State.mem_breakableHolds (State.mem_chosenHolds mem)).2.1) taken
    · rw [← holdUnits]
      exact State.lt_of_handles_concat (fun g mem => (State.mem_recallableGrants (State.mem_chosenVictims mem)).2.1)
        taken
    · rw [held]
      exact (takeUntil_prefix _ _).map _
    · rw [actives]
      exact ((takeUntil_prefix _ _).trans (List.take_prefix _ _)).map _
    · rw [held]
      refine congrArg _ (takeUntil_of_short (Nat.lt_of_not_le fun covered => some_victim ?_))
      rw [reached covered, List.map_nil]

end Sys2Proof.Machine
end

section
/-! Shedding (R110, R115 to R118): its order, its steps one grant after another, and the emergency grants it leaves as they
are. -/

namespace Sys2Proof.Machine

/-- Between the two states entry i is as it was, and its handles have joined no tombstone list. -/
structure Untouched (i : GrantIndex) (s t : State) : Prop where
  entry : look t.table.entries i = look s.table.entries i
  stones : ∀ m h, h.index = i → h ∉ look s.table.tombstones m → h ∉ look t.table.tombstones m

namespace Untouched

variable {i : GrantIndex} {s t u : State}

theorem refl : Untouched i s s := ⟨rfl, fun _ _ _ => id⟩

theorem trans (h : Untouched i s t) (k : Untouched i t u) : Untouched i s u :=
  ⟨k.entry.trans h.entry, fun m x e n => k.stones m x e (h.stones m x e n)⟩

theorem of_table (h : t.table = s.table) : Untouched i s t := ⟨by rw [h], fun m x _ n => by rwa [h]⟩

theorem foldl {α : Type} {f : State → α → State} {l : List α}
    (h : ∀ t, Untouched i s t → ∀ x ∈ l, Untouched i t (f t x)) : Untouched i s (l.foldl f s) := by
  suffices all : ∀ (l' : List α) (t : State), l' ⊆ l → Untouched i s t → Untouched i s (l'.foldl f t) from
    all l s (List.Subset.refl l) refl
  intro l'
  induction l' with
  | nil => exact fun t _ k => k
  | cons x rest ih =>
    intro t sub k
    obtain ⟨mem, sub⟩ := List.cons_subset.mp sub
    exact ih _ sub (k.trans (h t k x mem))

theorem grantAt (k : Untouched i s t) {h : Handle} (e : h.index = i) : t.grantAt h = s.grantAt h := by
  subst e
  simp only [State.grantAt, k.entry]

theorem setGrant {h : Handle} (n : i ≠ h.index) (s : State) (g : Grant) : Untouched i s (s.setGrant h g) :=
  ⟨look_put_ne _ n _, fun _ _ _ => id⟩

theorem recycle {j : GrantIndex} (n : i ≠ j) (s : State) : Untouched i s (s.recycle j) :=
  ⟨by rw [State.table_recycle]; exact look_put_ne _ n _, fun m h _ e => by rwa [State.table_recycle]⟩

theorem modTombstones (s : State) (m : MasterId) (f : List Handle → List Handle)
    (e : ∀ h, h.index = i → h ∉ look s.table.tombstones m → h ∉ f (look s.table.tombstones m)) :
    Untouched i s (s.modTombstones m f) := by
  refine ⟨rfl, fun j h x n => ?_⟩
  simp only [State.table_modTombstones, look_put]
  split_ifs with c
  · subst c
    exact e h x n
  · exact n

/-- Freeing another entry, or none. -/
theorem freeGrant {h : Handle} (n : i ≠ h.index ∨ s.grantAt h = none) : Untouched i s (s.freeGrant h) := by
  cases named : s.grantAt h with
  | none =>
    rw [State.freeGrant, named]
    exact refl
  | some g =>
    have other : i ≠ h.index := n.resolve_right (by simp [named])
    by_cases revoked : ∃ cause, g.phase = .revoked cause
    · obtain ⟨cause, phase⟩ := revoked
      rw [State.freeGrant_of_revoked named phase]
      exact (modTombstones _ _ _ fun x _ k c => k (List.mem_of_mem_erase c)).trans (recycle other _)
    · rw [State.freeGrant_of_listed named fun cause phase => revoked ⟨cause, phase⟩]
      exact (of_table (by simp)).trans (recycle other _)

/-- A tombstone of another entry, which does not push out one of this entry. -/
theorem addTombstone {h : Handle} (n : i ≠ h.index) {m : MasterId}
    (k : ⟨(look s.table.entries i).gen, i⟩ ∉ look s.table.tombstones m) : Untouched i s (s.addTombstone m h) := by
  have join (t : State) : Untouched i t (t.modTombstones m fun l => l ++ [h]) := by
    refine modTombstones _ _ _ fun x e a b => ?_
    rcases List.mem_append.mp b with b | b
    · exact a b
    · exact n (by rw [← e, List.mem_singleton.mp b])
  unfold State.addTombstone
  split
  · exact join _
  · next oldest rest e =>
    dsimp only
    split_ifs
    · exact join _
    · rw [e] at k
      refine ((modTombstones s m (fun _ => rest) fun x _ a => ?_).trans (freeGrant ?_)).trans (join _)
      · rw [e] at a
        exact fun b => a (List.mem_cons_of_mem _ b)
      · by_cases c : oldest.index = i
        · exact .inr (Spares.grantAt_none _ c fun x => k (x ▸ List.mem_cons_self))
        · exact .inl (Ne.symm c)

theorem takeAway {h : Handle} (n : i ≠ h.index) (s : State) (g : Grant) (cause : RevokeCause) (dest : UnitsTo) :
    Untouched i s (s.takeAway h g cause dest) :=
  (setGrant n s { g with units := 0, phase := .revoked cause }).trans (of_table (by simp [State.takeAway]))

/-- Revoking the grant of another entry, or none. -/
theorem revoke {h : Handle} (cause : RevokeCause) (dest : UnitsTo) (n : i ≠ h.index ∨ s.grantAt h = none)
    (k : ∀ g, s.grantAt h = some g → ⟨(look s.table.entries i).gen, i⟩ ∉ look s.table.tombstones g.owner) :
    Untouched i s (s.revoke h cause dest) := by
  cases named : s.grantAt h with
  | none =>
    rw [State.revoke, named]
    exact refl
  | some g =>
    have other : i ≠ h.index := n.resolve_right (by simp [named])
    have taken := takeAway other s g cause dest
    rw [State.revoke_of_grantAt named]
    have joins : Untouched i (s.takeAway h g cause dest) ((s.takeAway h g cause dest).addTombstone g.owner h) := by
      refine addTombstone other ?_
      rw [taken.entry]
      exact taken.stones _ _ rfl (k g named)
    exact (taken.trans joins).trans (of_table (by simp [State.countRevoked]))

theorem recallGrant {h : Handle} (cause : RecallCause) (j : Option CaseId) (n : i ≠ h.index ∨ s.grantAt h = none) :
    Untouched i s (s.recallGrant h cause j) := by
  cases named : s.grantAt h with
  | none =>
    rw [State.recallGrant, named]
    exact refl
  | some g =>
    have other : i ≠ h.index := n.resolve_right (by simp [named])
    rw [State.recallGrant_of_grantAt named]
    have marked := setGrant other s
      { g with phase := .recalled cause (s.now + (s.master g.owner).releaseDeadline) j }
    exact marked.trans (of_table (by simp [State.countRecalled]))

end Untouched

namespace State

variable {s : State} {c : CarrierId} {h : Handle} {g : Grant}

/-! ### The shed records -/

theorem shed_giveUnits (s : State) (c : CarrierId) (u : Nat) (d : UnitsTo) :
    (s.giveUnits c u d).recallUnit.shed = s.recallUnit.shed := by
  cases d with
  | pool => rw [giveUnits, returnUnits_eq]
  | earmark k => rfl
  | nowhere => rfl

theorem shed_markAttached (s : State) (h : Handle) (v : VictimState) (k : Option CaseId) :
    (s.markAttached h v k).recallUnit.shed = s.recallUnit.shed := by
  cases k <;> rfl

theorem shed_recycle (s : State) (i : GrantIndex) : (s.recycle i).recallUnit.shed = s.recallUnit.shed := by
  rw [recycle_eq]

theorem shed_freeGrant (s : State) (h : Handle) : (s.freeGrant h).recallUnit.shed = s.recallUnit.shed := by
  cases named : s.grantAt h with
  | none => rw [freeGrant, named]
  | some g =>
    by_cases revoked : ∃ cause, g.phase = .revoked cause
    · obtain ⟨cause, phase⟩ := revoked
      rw [freeGrant_of_revoked named phase, shed_recycle]
      rfl
    · rw [freeGrant_of_listed named fun cause phase => revoked ⟨cause, phase⟩, shed_recycle, shed_markAttached,
        shed_giveUnits]
      rfl

theorem shed_addTombstone (s : State) (m : MasterId) (h : Handle) :
    (s.addTombstone m h).recallUnit.shed = s.recallUnit.shed := by
  unfold addTombstone
  split
  · rfl
  · dsimp only
    split_ifs
    · rfl
    · exact shed_freeGrant _ _

theorem shed_revoke (s : State) (h : Handle) (cause : RevokeCause) (d : UnitsTo) :
    (s.revoke h cause d).recallUnit.shed = s.recallUnit.shed := by
  cases named : s.grantAt h with
  | none => rw [revoke, named]
  | some g =>
    rw [revoke_of_grantAt named, offer_eq_ports]
    change ((s.takeAway h g cause d).addTombstone g.owner h).recallUnit.shed = _
    rw [shed_addTombstone, takeAway, shed_markAttached, shed_giveUnits]
    rfl

theorem recallUnit_recallGrant (s : State) (h : Handle) (cause : RecallCause) (j : Option CaseId) :
    (s.recallGrant h cause j).recallUnit = s.recallUnit := by
  cases named : s.grantAt h with
  | none => rw [recallGrant, named]
  | some g => rw [recallGrant_eq named]

/-! ### The steps of a shedding -/

theorem advise_of_advised (named : s.grantAt h = some g)
    (advised : g.level = .e ∧ (g.phase.isHeld || g.phase.isActive) = true ∧ h ∉ (s.carrier c).marks) :
    advise c s h =
      ((s.offer g.owner (.moveAdvised h)).modCarrier c fun k => { k with marks := k.marks ++ [h] }).modShed c fun r =>
        { r with grantsAdvised := r.grantsAdvised + 1 } := by
  rw [advise, named]
  exact if_pos advised

theorem advise_of_not (named : s.grantAt h = some g)
    (not_advised : ¬(g.level = .e ∧ (g.phase.isHeld || g.phase.isActive) = true ∧ h ∉ (s.carrier c).marks)) :
    advise c s h = s := by
  rw [advise, named]
  exact if_neg not_advised

/-- An advice writes no grant and no deficit. -/
theorem advise_keeps (c : CarrierId) (s : State) (h : Handle) :
    (advise c s h).table = s.table ∧
      (look (advise c s h).recallUnit.shed c).deficit = (look s.recallUnit.shed c).deficit := by
  cases named : s.grantAt h with
  | none =>
    rw [advise, named]
    exact ⟨rfl, rfl⟩
  | some g =>
    by_cases advised : g.level = .e ∧ (g.phase.isHeld || g.phase.isActive) = true ∧ h ∉ (s.carrier c).marks
    · rw [advise_of_advised named advised, offer_eq_ports]
      refine ⟨rfl, ?_⟩
      change (look (put s.recallUnit.shed c _) c).deficit = _
      rw [look_put_same]
      rfl
    · rw [advise_of_not named advised]
      exact ⟨rfl, rfl⟩

theorem adviseAll_keeps (c : CarrierId) (l : List Handle) (s : State) :
    (l.foldl (advise c) s).table = s.table ∧
      (look (l.foldl (advise c) s).recallUnit.shed c).deficit = (look s.recallUnit.shed c).deficit := by
  induction l generalizing s with
  | nil => exact ⟨rfl, rfl⟩
  | cons h rest ih =>
    obtain ⟨table, deficit⟩ := ih (advise c s h)
    obtain ⟨table', deficit'⟩ := advise_keeps c s h
    exact ⟨table.trans table', deficit.trans deficit'⟩

theorem shedHolds_of_zero (c : CarrierId) (l : List Listed) (s : State) : shedHolds c l 0 s = (0, s) := by
  cases l <;> rfl

theorem shedActive_of_zero (c : CarrierId) (l : List Listed) (s : State) : shedActive c l 0 s = (0, s) := by
  cases l <;> rfl

theorem shedHolds_cons {d : Nat} (h : 0 < d) (c : CarrierId) (g : Listed) (rest : List Listed) (s : State) :
    shedHolds c (g :: rest) d s = shedHolds c rest (d - g.2.units)
      ((s.revoke g.1 .holdBroken .nowhere).modShed c fun r => { r with holdsBroken := r.holdsBroken + 1 }) :=
  if_neg (Nat.ne_of_gt h)

theorem shedActive_cons {d : Nat} (h : 0 < d) (c : CarrierId) (g : Listed) (rest : List Listed) (s : State) :
    shedActive c (g :: rest) d s = shedActive c rest (d - g.2.units)
      ((s.recallGrant g.1 .shed none).modShed c fun r => { r with grantsRecalled := r.grantsRecalled + 1 }) :=
  if_neg (Nat.ne_of_gt h)

theorem deficit_modShed {f : ShedRecord → ShedRecord} (h : ∀ r, (f r).deficit = r.deficit) (c : CarrierId) (s : State) :
    (look (s.modShed c f).recallUnit.shed c).deficit = (look s.recallUnit.shed c).deficit := by
  rw [modShed, look_put_same, h]

theorem deficit_shedHolds (c : CarrierId) (l : List Listed) (d : Nat) (s : State) :
    (look (shedHolds c l d s).2.recallUnit.shed c).deficit = (look s.recallUnit.shed c).deficit := by
  induction l generalizing d s with
  | nil => rfl
  | cons g rest ih =>
    rcases Nat.eq_zero_or_pos d with rfl | more
    · rw [shedHolds_of_zero]
    · rw [shedHolds_cons more, ih,
        deficit_modShed (f := fun r => { r with holdsBroken := r.holdsBroken + 1 }) fun _ => rfl, shed_revoke]

theorem deficit_shedActive (c : CarrierId) (l : List Listed) (d : Nat) (s : State) :
    (look (shedActive c l d s).2.recallUnit.shed c).deficit = (look s.recallUnit.shed c).deficit := by
  induction l generalizing d s with
  | nil => rfl
  | cons g rest ih =>
    rcases Nat.eq_zero_or_pos d with rfl | more
    · rw [shedActive_of_zero]
    · rw [shedActive_cons more, ih,
        deficit_modShed (f := fun r => { r with grantsRecalled := r.grantsRecalled + 1 }) fun _ => rfl,
        recallUnit_recallGrant]

/-- Breaking holds leaves alone a grant that is not among them and no tombstone. -/
theorem untouched_shedHolds (c : CarrierId) (l : List Listed) (d : Nat) (s : State) (named : s.grantAt h = some g)
    (others : ∀ x ∈ l, x.1 ≠ h) (alive : ∀ m, h ∉ look s.table.tombstones m) :
    Untouched h.index s (shedHolds c l d s).2 := by
  induction l generalizing d s with
  | nil => exact .refl
  | cons x rest ih =>
    rw [List.forall_mem_cons] at others
    obtain ⟨first, others⟩ := others
    rcases Nat.eq_zero_or_pos d with rfl | more
    · rw [shedHolds_of_zero]
      exact .refl
    · rw [shedHolds_cons more]
      obtain ⟨gen, -⟩ := grantAt_eq_some_iff.mp named
      have step : Untouched h.index s ((s.revoke x.1 .holdBroken .nowhere).modShed c fun r =>
          { r with holdsBroken := r.holdsBroken + 1 }) := by
        refine (Untouched.revoke _ _ ?_ fun _ _ => by rw [gen]; exact alive _).trans (.of_table rfl)
        by_cases same : x.1.index = h.index
        · exact .inr (Spares.grantAt_none s same (by rw [gen]; exact first))
        · exact .inl (Ne.symm same)
      exact step.trans (ih _ _ ((step.grantAt rfl).trans named) others fun m => step.stones m h rfl (alive m))

/-- Recalling grants leaves alone a grant that is not among them. -/
theorem untouched_shedActive (c : CarrierId) (l : List Listed) (d : Nat) (s : State) (named : s.grantAt h = some g)
    (others : ∀ x ∈ l, x.1 ≠ h) : Untouched h.index s (shedActive c l d s).2 := by
  induction l generalizing d s with
  | nil => exact .refl
  | cons x rest ih =>
    rw [List.forall_mem_cons] at others
    obtain ⟨first, others⟩ := others
    rcases Nat.eq_zero_or_pos d with rfl | more
    · rw [shedActive_of_zero]
      exact .refl
    · rw [shedActive_cons more]
      obtain ⟨gen, -⟩ := grantAt_eq_some_iff.mp named
      have step : Untouched h.index s ((s.recallGrant x.1 .shed none).modShed c fun r =>
          { r with grantsRecalled := r.grantsRecalled + 1 }) := by
        refine (Untouched.recallGrant _ _ ?_).trans (.of_table rfl)
        by_cases same : x.1.index = h.index
        · exact .inr (Spares.grantAt_none s same (by rw [gen]; exact first))
        · exact .inl (Ne.symm same)
      exact step.trans (ih _ _ ((step.grantAt rfl).trans named) others)

/-! ### What a shedding may take -/

/-- No emergency grant is in an order of lowest levels first. -/
theorem level_of_mem_lowestFirst {x : Listed} {l : List Listed} (h : x ∈ lowestFirst l) : x.2.level ≠ .e := by
  simp only [lowestFirst, List.mem_append, List.mem_filter, decide_eq_true_eq] at h
  obtain (h | h) | h := h <;> simp [h.2]

theorem mem_sheddableHolds {x : Listed} (h : x ∈ s.sheddableHolds c) :
    s.grantAt x.1 = some x.2 ∧ x.2.level ≠ .e :=
  ⟨(mem_youngestFirst (List.mem_of_mem_filter (mem_lowestFirst h))).2, level_of_mem_lowestFirst h⟩

theorem mem_sheddableActive {x : Listed} (h : x ∈ s.sheddableActive c) :
    s.grantAt x.1 = some x.2 ∧ x.2.level ≠ .e :=
  ⟨(mem_youngestFirst (List.mem_of_mem_filter (mem_aboveFirst (mem_lowestFirst h)))).2, level_of_mem_lowestFirst h⟩

/-- A shedding as its steps. -/
theorem shed_eq (s : State) (c : CarrierId) :
    let begun := s.modShed c fun r => { r with deficit := s.deficit c }
    let broken := shedHolds c (s.sheddableHolds c) (s.deficit c) begun
    let recalled := shedActive c (broken.2.sheddableActive c) broken.1 broken.2
    s.shed c = if recalled.1 = 0 then recalled.2 else recalled.2.adviseAll c := rfl

/-- The deficit is written, and an emergency grant that is no tombstone stays. -/
theorem shed_keeps (s : State) (c : CarrierId) :
    (look (s.shed c).recallUnit.shed c).deficit = s.deficit c ∧
      ∀ h g, s.grantAt h = some g → g.level = .e → (∀ m, h ∉ look s.table.tombstones m) →
        (s.shed c).grantAt h = some g := by
  have steps := s.shed_eq c
  dsimp only at steps
  have begunDeficit : (look (s.modShed c fun r => { r with deficit := s.deficit c }).recallUnit.shed c).deficit =
      s.deficit c := by
    rw [modShed, look_put_same]
  have begunTable : (s.modShed c fun r => { r with deficit := s.deficit c }).table = s.table := rfl
  generalize s.modShed c (fun r => { r with deficit := s.deficit c }) = begun at steps begunDeficit begunTable
  have brokenDeficit := deficit_shedHolds c (s.sheddableHolds c) (s.deficit c) begun
  have brokenKeeps : ∀ h g, s.grantAt h = some g → g.level = .e → (∀ m, h ∉ look s.table.tombstones m) →
      Untouched h.index s (shedHolds c (s.sheddableHolds c) (s.deficit c) begun).2 := by
    intro h g named level alive
    have start : Untouched h.index s begun := .of_table begunTable
    refine start.trans (untouched_shedHolds _ _ _ _ ((start.grantAt rfl).trans named) (fun x mem same => ?_)
      fun m => start.stones m h rfl (alive m))
    obtain ⟨at_x, lower⟩ := mem_sheddableHolds mem
    rw [same, named] at at_x
    cases at_x
    exact lower level
  generalize shedHolds c (s.sheddableHolds c) (s.deficit c) begun = broken at steps brokenDeficit brokenKeeps
  have recalledDeficit := deficit_shedActive c (broken.2.sheddableActive c) broken.1 broken.2
  have recalledKeeps : ∀ h g, s.grantAt h = some g → g.level = .e → (∀ m, h ∉ look s.table.tombstones m) →
      Untouched h.index s (shedActive c (broken.2.sheddableActive c) broken.1 broken.2).2 := by
    intro h g named level alive
    have before := brokenKeeps h g named level alive
    refine before.trans (untouched_shedActive _ _ _ _ ((before.grantAt rfl).trans named) fun x mem same => ?_)
    obtain ⟨at_x, lower⟩ := mem_sheddableActive mem
    rw [same, before.grantAt rfl, named] at at_x
    cases at_x
    exact lower level
  generalize shedActive c (broken.2.sheddableActive c) broken.1 broken.2 = recalled at steps recalledDeficit recalledKeeps
  have whole : (s.shed c).table = recalled.2.table ∧
      (look (s.shed c).recallUnit.shed c).deficit = (look recalled.2.recallUnit.shed c).deficit := by
    rw [steps]
    split_ifs
    · exact ⟨rfl, rfl⟩
    · exact adviseAll_keeps c _ _
  obtain ⟨table, deficit⟩ := whole
  refine ⟨deficit.trans (recalledDeficit.trans (brokenDeficit.trans begunDeficit)), fun h g named level alive => ?_⟩
  have kept := (recalledKeeps h g named level alive).trans (.of_table table)
  exact (kept.grantAt rfl).trans named

/-- The grants of a carrier that satisfy `q`, youngest first, with their handles. -/
theorem filter_youngestFirst (s : State) (c : CarrierId) (q : Grant → Bool) :
    (s.youngestFirst c).filter (fun g => q g.2) = (s.carrier c).occupancy.reverse.filterMap fun h =>
      (s.grantAt h).bind fun g => if q g = true then some (h, g) else none := by
  unfold youngestFirst
  induction (s.carrier c).occupancy.reverse with
  | nil => rfl
  | cons h rest ih =>
    cases named : s.grantAt h with
    | none => simp [named, ih]
    | some g => by_cases holds : q g = true <;> simp [named, holds, ih]

end State

/-- Settles O42. -/
theorem sheddingSparesEmergencies : Obligations.SheddingSparesEmergencies := by
  refine ⟨fun c s => s.shed_keeps c, ?_, ?_, ?_⟩
  · intro c s ofLevel above holds active pendingUnits deficit begun broken recalled
    have listed (l : Level) (p : Grant → Bool) :
        ofLevel l p = (s.youngestFirst c).filter fun g => decide (g.2.level = l) && p g.2 := by
      rw [s.filter_youngestFirst c fun g => decide (g.level = l) && p g]
      refine List.filterMap_congr fun h _ => ?_
      cases s.grantAt h with
      | none => rfl
      | some g => by_cases same : g.level = l <;> simp [same]
    have held (l : Level) : ((s.youngestFirst c).filter fun g => g.2.phase.isHeld).filter (fun g => g.2.level = l) =
        holds l := by
      rw [List.filter_filter]
      refine Eq.trans ?_ (listed l _).symm
      refine List.filter_congr fun g _ => congrArg _ ?_
      cases g.2.phase <;> rfl
    have owned (q : MasterId → Bool) (l : Level) (p : Grant → Bool)
        (same : ∀ g, p g = (q g.owner && g.phase.isActive)) :
        (((s.youngestFirst c).filter fun g => g.2.phase.isActive).filter fun g => q g.2.owner).filter
          (fun g => g.2.level = l) = ofLevel l p := by
      rw [List.filter_filter, List.filter_filter, listed]
      exact List.filter_congr fun g _ => by rw [same, Bool.and_assoc]
    have actives (l : Level) :
        (s.aboveFirst ((s.youngestFirst c).filter fun g => g.2.phase.isActive)).filter (fun g => g.2.level = l) =
          active l := by
      rw [State.aboveFirst, List.filter_append]
      refine congrArg₂ (· ++ ·) (owned s.aboveGuarantee l _ fun g => ?_)
        (owned (fun m => !s.aboveGuarantee m) l _ fun g => ?_)
      all_goals cases g.phase <;> simp [GrantPhase.isActive, above, State.aboveGuarantee]
    have missing : deficit = s.deficit c := by
      refine congrArg (fun n => s.occupied c - s.effective c - n)
        (congrArg List.sum (List.map_congr_left fun h _ => ?_))
      simp only [pendingUnits, State.pendingUnitsAt]
      cases s.grantAt h with
      | none => rfl
      | some g =>
        obtain ⟨_, _, _, _, _, _, phase⟩ := g
        cases phase with
        | recalled _ _ attached => cases attached <;> rfl
        | _ => rfl
    refine ⟨?_, ?_, ?_⟩
    · rw [← held, ← held, ← held]
      rfl
    · rw [← actives, ← actives, ← actives]
      rfl
    · have steps := s.shed_eq c
      rw [← missing] at steps
      exact steps
  · intro c h g rest d s broken recalled
    exact ⟨rfl, rfl, rfl, rfl, fun more => State.shedHolds_cons more c (h, g) rest s,
      fun more => State.shedActive_cons more c (h, g) rest s⟩
  · intro c h g s named deadline recalled told advised
    have condition : advised ↔ g.level = .e ∧ (g.phase.isHeld || g.phase.isActive) = true ∧
        h ∉ (s.carrier c).marks := by
      have phase : (g.phase = .active ∨ ∃ d, g.phase = .held d) ↔ (g.phase.isHeld || g.phase.isActive) = true := by
        cases g.phase <;> simp [GrantPhase.isHeld, GrantPhase.isActive]
      exact and_congr_right fun _ => and_congr_left fun _ => phase
    refine ⟨?_, ?_, fun not_holds => State.advise_of_not named (mt condition.mpr not_holds)⟩
    · have kept : told = { recalled with ports := told.ports } := State.offer_eq_ports recalled _ _
      rw [State.recallGrant_of_grantAt named, State.setGrant_of_grantAt named]
      change State.countRecalled told _ = _
      rw [kept]
      rfl
    · intro holds sent
      have kept : sent = { s with ports := sent.ports } := State.offer_eq_ports s _ _
      rw [State.advise_of_advised named (condition.mp holds)]
      change State.modShed (State.modCarrier sent _ _) _ _ = _
      rw [kept]
      rfl

end Sys2Proof.Machine
end

section
/-! How a frame is taken by the state of its link and what waits in its receive buffer (R143, R145, R156). -/

namespace Sys2Proof.Machine

namespace State

variable {s : State} {m : MasterId} {c : Instr}

theorem hold_of_room (l : s.Listens m) (room : s.framesWaiting m < 16) : s.hold m c = (s.wake m).joinBuffer m c := by
  have few : ¬Config.receiveSize ≤ s.framesWaiting m := Nat.not_le.mpr room
  rcases l with l | l <;> simp only [hold, l, if_neg few]

theorem hold_of_full (l : s.Listens m) (full : 16 ≤ s.framesWaiting m) : s.hold m c = s.noteFault m := by
  have many : Config.receiveSize ≤ s.framesWaiting m := full
  rcases l with l | l <;> simp only [hold, l, if_pos many]

/-- Sixteen frames that wait are no empty buffer. -/
theorem rxBuffer_ne_nil_of_full (full : 16 ≤ s.framesWaiting m) : (s.port m).rxBuffer ≠ [] := by
  intro empty
  rw [framesWaiting, empty] at full
  exact absurd full (by decide)

theorem onRadioFrame_of_down (down : s.radio.link = .down) (c : Instr) (serve : State → State) :
    s.onRadioFrame c serve = s := by
  simp only [onRadioFrame, down]

theorem onRadioFrame_of_waiting (l : s.radio.link ≠ .down) (waits : s.radio.rxBuffer ≠ []) (serve : State → State) :
    s.onRadioFrame c serve = s.holdRadio c := by
  have busy : ¬s.radio.rxBuffer.isEmpty = true := by simpa using waits
  cases link : s.radio.link
  · exact absurd link l
  all_goals simp only [onRadioFrame, link, if_neg busy]

theorem holdRadio_of_down (down : s.radio.link = .down) : s.holdRadio c = s := by
  simp only [holdRadio, down]

theorem radioFull_iff : s.radioFull = true ↔ 16 ≤ s.radio.rxBuffer.length := decide_eq_true_iff

theorem holdRadio_of_room (l : s.radio.link ≠ .down) (room : s.radio.rxBuffer.length < 16) :
    s.holdRadio c = s.wakeRadio.joinRadioBuffer c := by
  have few : ¬s.radioFull = true := mt radioFull_iff.mp (Nat.not_le.mpr room)
  cases link : s.radio.link
  · exact absurd link l
  all_goals simp only [holdRadio, link, if_neg few]

theorem holdRadio_of_full (full : 16 ≤ s.radio.rxBuffer.length) : s.holdRadio c = s := by
  have many := radioFull_iff.mpr full
  unfold holdRadio
  split
  · rfl
  all_goals exact if_pos many

theorem rxBuffer_ne_nil_of_radioFull (full : 16 ≤ s.radio.rxBuffer.length) : s.radio.rxBuffer ≠ [] := by
  intro empty
  rw [empty] at full
  exact absurd full (by decide)

/-- What has come in on the radio link and is a report or a tick. -/
theorem arrive_radioFrame (f : (∃ k v, c = .carrierReport k v) ∨ ∃ n, c = .epochTick n) :
    s.arrive c = s.holdRadio c := by
  rcases f with ⟨k, v, rfl⟩ | ⟨n, rfl⟩ <;> rfl

/-! ### RADIO_OPEN -/

theorem arrive_radioOpen_of_down (held : s.resetHeld = false) (down : s.radio.link = .down) (tag : Half) :
    s.arrive (.radioOpen tag) = s.openRadio tag := by
  have taken : s.arrive (.radioOpen tag) =
      match s.radio.link with
      | .down => s.takeRadioOpen tag
      | .up | .stale => s.holdRadioOpen tag := rfl
  rw [taken, down]
  exact if_neg (by simp [held])

theorem arrive_radioOpen_of_linked (l : s.radio.link ≠ .down) (tag : Half) :
    s.arrive (.radioOpen tag) = s.holdRadioOpen tag := by
  have taken : s.arrive (.radioOpen tag) =
      match s.radio.link with
      | .down => s.takeRadioOpen tag
      | .up | .stale => s.holdRadioOpen tag := rfl
  rw [taken]
  cases link : s.radio.link
  · exact absurd link l
  all_goals rfl

theorem exec_radioOpen_of_waiting (held : s.resetHeld = false) (l : s.radio.link ≠ .down)
    (waits : s.radio.rxBuffer ≠ []) (tag : Half) : exec (.radioOpen tag) s = .next (s.holdRadioOpen tag) := by
  have opens : exec (.radioOpen tag) s = .next
      (if s.resetHeld then s
      else
        match s.radio.link with
        | .down => s.openRadio tag
        | .up | .stale => if s.radio.rxBuffer.isEmpty then s.openRadio tag else s.holdRadioOpen tag) := rfl
  rw [opens, held, if_neg Bool.false_ne_true]
  have busy : ¬s.radio.rxBuffer.isEmpty = true := by simpa using waits
  cases link : s.radio.link
  · exact absurd link l
  all_goals simp only [if_neg busy]

theorem holdRadioOpen_of_room (room : s.radio.rxBuffer.length < 16) (tag : Half) :
    s.holdRadioOpen tag = s.joinRadioBuffer (.radioOpen tag) :=
  if_neg (mt radioFull_iff.mp (Nat.not_le.mpr room))

theorem holdRadioOpen_of_full (full : 16 ≤ s.radio.rxBuffer.length) (tag : Half) : s.holdRadioOpen tag = s :=
  if_pos (radioFull_iff.mpr full)

end State

/-- Settles O43. -/
theorem framesServedByLinkState : Obligations.FramesServedByLinkState := by
  refine ⟨?_, ?_, ?_, ?_, ?_, ?_, ?_⟩
  · intro c m s w f queued
    refine ⟨fun closed => ⟨?_, ?_⟩, fun serves => exec_of_serves serves w f,
      fun l room => ⟨?_, fun waits => ?_⟩, fun l full => ?_⟩
    · rw [State.exec_frame w f, State.onFrame_of_not closed]
    · rw [State.arrive_frame f, State.hold_of_not closed]
    · rw [State.arrive_frame f, State.hold_of_room l room]
      rfl
    · rw [State.exec_frame w f, State.onFrame_of_waiting waits, State.hold_of_room l room]
      rfl
    · have counted : exec (.receiveBufferOverflow m) s = .next (s.noteFault m) := rfl
      rw [counted, State.arrive_frame f, State.exec_frame w f,
        State.onFrame_of_waiting (State.rxBuffer_ne_nil_of_full full), State.hold_of_full l full]
      exact ⟨rfl, rfl⟩
  · intro m s serves
    exact exec_of_serves serves rfl rfl
  · exact fun m notice keep s => ⟨rfl, State.arrive_linkOpen m notice keep s⟩
  · intro m cfgr epm c s h
    rcases h with rfl | rfl | rfl | rfl | rfl | rfl | rfl <;> rfl
  · intro carrier number available s down
    exact ⟨congrArg _ (State.onRadioFrame_of_down down _ _), congrArg _ (State.onRadioFrame_of_down down _ _)⟩
  · intro c s f queued
    refine ⟨fun down => ?_, fun serves => ?_, fun l room => ⟨?_, fun waits => ?_⟩, fun l full => ⟨?_, ?_⟩⟩
    · rw [State.arrive_radioFrame f, State.holdRadio_of_down down]
    · rw [State.exec_radioFrame f, State.onRadioFrame_of_serves serves]
    · rw [State.arrive_radioFrame f, State.holdRadio_of_room l room]
      rfl
    · rw [State.exec_radioFrame f, State.onRadioFrame_of_waiting l waits, State.holdRadio_of_room l room]
      rfl
    · rw [State.exec_radioFrame f, State.onRadioFrame_of_waiting l (State.rxBuffer_ne_nil_of_radioFull full),
        State.holdRadio_of_full full]
    · rw [State.arrive_radioFrame f, State.holdRadio_of_full full]
  · intro tag s held queued
    refine ⟨fun down => State.arrive_radioOpen_of_down held down tag, fun h => State.exec_radioOpen_of_empty held h tag,
      fun l room => ⟨?_, fun waits => ?_⟩, fun l full => ⟨?_, ?_⟩⟩
    · rw [State.arrive_radioOpen_of_linked l, State.holdRadioOpen_of_room room]
      rfl
    · rw [State.exec_radioOpen_of_waiting held l waits, State.holdRadioOpen_of_room room]
      rfl
    · rw [State.arrive_radioOpen_of_linked l, State.holdRadioOpen_of_full full]
    · rw [State.exec_radioOpen_of_waiting held l (State.rxBuffer_ne_nil_of_radioFull full),
        State.holdRadioOpen_of_full full]

end Sys2Proof.Machine
end

section
/-! Capacity reports (R10) and OVER episodes: their end, their beginning, a further hand-off, and a case rolled back (R7, R8,
R110 to R114). -/

namespace Sys2Proof.Machine

namespace State

variable {s : State} {c : CarrierId} {v : Nat}

/-- The state once a carrier's reported value is written. -/
def reportedAs (s : State) (c : CarrierId) (v : Nat) : State :=
  s.modCarrier c fun k => { k with reported := some (min v Config.maxNominal) }

theorem carrier_reportedAs (s : State) (c d : CarrierId) (v : Nat) :
    (s.reportedAs c v).carrier d =
      if d = c then { s.carrier c with reported := some (min v Config.maxNominal) } else s.carrier d := by
  by_cases same : d = c
  · subst same
    rw [if_pos rfl]
    exact carrier_modCarrier_same s d _
  · rw [if_neg same]
    exact carrier_modCarrier_ne s same _

theorem occupied_reportedAs (s : State) (c d : CarrierId) (v : Nat) : (s.reportedAs c v).occupied d = s.occupied d := by
  have list : ((s.reportedAs c v).carrier d).occupancy = (s.carrier d).occupancy := by
    rw [carrier_reportedAs]
    split_ifs with same
    · rw [same]
    · rfl
  rw [occupied, list]
  rfl

theorem state_reportedAs (s : State) (c : CarrierId) (v : Nat) :
    ((s.reportedAs c v).carrier c).state = (s.carrier c).state := by
  rw [carrier_reportedAs, if_pos rfl]

theorem isOver_reportedAs (s : State) (c : CarrierId) (v : Nat) :
    ((s.reportedAs c v).carrier c).isOver = (s.carrier c).isOver := by
  rw [carrier_reportedAs, if_pos rfl]

/-- A report as the engine serves it, by what it does to the effective capacity. -/
theorem serveReport_eq (s : State) (c : CarrierId) (v : Nat) :
    s.serveReport c v =
      if (s.carrier c).state = .off then s.reportedAs c v
      else if (s.reportedAs c v).effective c = s.effective c then s.reportedAs c v
      else if s.effective c < (s.reportedAs c v).effective c then
        if (s.carrier c).isOver then (s.reportedAs c v).evalOverOf c else (s.reportedAs c v).addDue c
      else if (s.carrier c).isOver then (s.reportedAs c v).handOffAgain c
      else if (s.reportedAs c v).effective c < s.occupied c then (s.reportedAs c v).beginEpisode c
      else s.reportedAs c v := by
  rw [← state_reportedAs s c v, ← isOver_reportedAs s c v, ← occupied_reportedAs s c c v]
  rfl

theorem evalOverOf_of_ends (over_ : (s.carrier c).isOver = true) (fits : s.occupied c ≤ s.effective c) :
    s.evalOverOf c = s.endEpisode c := if_pos (by simp [over_, fits])

theorem evalOverOf_of_stays (stays : ¬((s.carrier c).isOver = true ∧ s.occupied c ≤ s.effective c)) :
    s.evalOverOf c = s := if_neg (by simpa using stays)

/-- An episode's end, field by field. -/
theorem endEpisode_eq (s : State) (c : CarrierId) :
    s.endEpisode c = { s with
      pool := { s.pool with carriers := put s.pool.carriers c { s.carrier c with isOver := false, marks := [] } }
      engine := { s.engine with due := if c ∈ s.engine.due then s.engine.due else s.engine.due ++ [c] } } := by
  rw [endEpisode, addDue_eq]
  rfl

theorem closeHandOff_eq (s : State) (c : CarrierId) :
    s.closeHandOff c =
      if (s.carrier c).isOver = true ∧ s.occupied c ≤ s.effective c then (s.endEpisode c).evalQuota else s.evalQuota := by
  unfold closeHandOff
  split_ifs with ends
  · obtain ⟨over_, fits⟩ := ends
    rw [evalOverOf_of_ends over_ fits]
  · rw [evalOverOf_of_stays ends]

/-- The value a report writes (R10, R172). -/
theorem min_reportedValue (available : Half) :
    min (reportedValue available) Config.maxNominal =
      if available.toNat = 65535 then 0 else min available.toNat 1023 := by
  have value : reportedValue available = if available.toNat = 65535 then 0 else available.toNat := rfl
  rw [value]
  split_ifs <;> rfl

theorem exec_carrierReport_of_serves (serves : s.RadioServes) (number : Byte) (available : Half) :
    exec (.carrierReport number available) s = .next (s.wakeRadio.report number available) := by
  rw [exec_radioFrame (.inl ⟨number, available, rfl⟩), onRadioFrame_of_serves serves]
  rfl

theorem report_of_outside {number : Byte} (outside : 11 < number.toNat) (available : Half) :
    s.report number available = s := by
  rw [report, numberBelow_none (by omega)]

theorem report_of_carrier {number : Byte} (names : number.toNat = c.val) (available : Half) :
    s.report number available = (s.serveReport c (reportedValue available)).finish := by
  rw [report, numberBelow_eq c names]

/-! ### A case rolled back -/

variable {k : CaseId} {x : Case}

theorem retarget_of_case {p : Plan} (room : s.tableHasRoom x.req.level = true) (plan : s.findPlan x.req = some p)
    (direct : p.direct = false) : s.retarget k x = s.gather k x.req x.openedAt p := by
  rw [retarget, if_pos room, plan]
  exact if_neg (by simp [direct])

theorem retarget_of_direct {p : Plan} (room : s.tableHasRoom x.req.level = true) (plan : s.findPlan x.req = some p)
    (direct : p.direct = true) : s.retarget k x = (s.freeCase k).admitDirectly x.req p := by
  rw [retarget, if_pos room, plan]
  exact if_pos direct

theorem retarget_of_none (none_left : ¬s.tableHasRoom x.req.level = true ∨ s.findPlan x.req = none) :
    s.retarget k x = (s.freeCase k).returnRequest x.req := by
  have unplanned : (if s.tableHasRoom x.req.level then s.findPlan x.req else none) = none := by
    split_ifs with room
    · exact none_left.resolve_left (not_not_intro room)
    · rfl
  rw [retarget, unplanned]

theorem rollback_of_case (collecting : s.caseAt k = some x) (c : CarrierId) :
    rollback c s k =
      ({ s.detachAll k x with recallUnit := { s.recallUnit with
        cases := put s.recallUnit.cases k (some { x with earmark := 0, victims := [] })
        shed := put s.recallUnit.shed c
          { look s.recallUnit.shed c with casesRolledBack := (look s.recallUnit.shed c).casesRolledBack + 1 } } } :
        State).retarget k { x with earmark := 0, victims := [] } := by
  rw [rollback, collecting, ← recallUnit_detachAll s k x]
  rfl

end State

/-- Settles O41. -/
theorem carrierReportServed : Obligations.CarrierReportServed := by
  refine ⟨?_, ?_, ?_⟩
  · intro number available s serves run w
    have frame : run = .next (w.report number available) := State.exec_carrierReport_of_serves serves number available
    refine ⟨fun outside => ?_, ?_⟩
    · rw [frame, State.report_of_outside outside]
    · intro c names v t isOver
      have written : w.reportedAs c (State.reportedValue available) = t := by
        rw [State.reportedAs, State.min_reportedValue]
      have served : run = .next (State.finish (w.serveReport c (State.reportedValue available))) := by
        rw [frame, State.report_of_carrier names]
      rw [State.serveReport_eq, written] at served
      change run = .next (State.finish
        (if (s.carrier c).state = .off then t
        else if t.effective c = s.effective c then t
        else if s.effective c < t.effective c then if isOver then t.evalOverOf c else t.addDue c
        else if isOver then t.handOffAgain c
        else if t.effective c < s.occupied c then t.beginEpisode c
        else t)) at served
      have occupied : t.occupied c = s.occupied c := by
        rw [← written, State.occupied_reportedAs]
        rfl
      have flag : ((t.carrier c).isOver = true) = isOver := by
        rw [← written, State.isOver_reportedAs]
        rfl
      refine ⟨fun same => ?_, fun on up over_ high => ?_, fun on up over_ low => ?_, fun on up under => ?_,
        fun on down over_ => ?_, fun on down under high => ?_, fun on down under low => ?_⟩
      · by_cases off : (s.carrier c).state = .off
        · rw [served, if_pos off]
        · rw [served, if_neg off, if_pos (same.resolve_left off)]
      · rw [served, if_neg on, if_neg (Nat.ne_of_gt up), if_pos up, if_pos over_,
          State.evalOverOf_of_stays (by rw [occupied]; exact fun h => absurd h.2 (Nat.not_le.mpr high))]
      · rw [served, if_neg on, if_neg (Nat.ne_of_gt up), if_pos up, if_pos over_,
          State.evalOverOf_of_ends (by rw [flag]; exact over_) (by rw [occupied]; exact low)]
      · rw [served, if_neg on, if_neg (Nat.ne_of_gt up), if_pos up, if_neg under, State.addDue_eq]
      · rw [served, if_neg on, if_neg (Nat.ne_of_lt down), if_neg (Nat.lt_asymm down), if_pos over_]
      · rw [served, if_neg on, if_neg (Nat.ne_of_lt down), if_neg (Nat.lt_asymm down), if_neg under, if_pos high]
      · rw [served, if_neg on, if_neg (Nat.ne_of_lt down), if_neg (Nat.lt_asymm down), if_neg under,
          if_neg (Nat.not_lt.mpr low)]
  · intro c s close begun cases
    have targeting : cases = begun.casesTargeting c := by
      refine List.filter_congr fun k _ => ?_
      change _ = (match s.caseAt k with
        | some x => decide (x.target = c)
        | none => false)
      cases s.caseAt k <;> rfl
    refine ⟨s.endEpisode_eq c, ?_, State.closeHandOff_eq _ c⟩
    rw [targeting]
    exact State.closeHandOff_eq _ c
  · intro c k x s collecting emptied detached t freed space entry
    have back : State.rollback c s k = t.retarget k emptied := State.rollback_of_case collecting c
    have room : entry ↔ t.tableHasRoom emptied.req.level = true := by
      rw [State.tableHasRoom_iff, Nat.not_lt]
    have stored : space ↔ freed.storeHasSpace x.req.level = true := (State.storeHasSpace_iff freed x.req.level).symm
    rw [back]
    refine ⟨fun p free plan direct => State.retarget_of_case (room.mp free) plan direct,
      fun p free plan direct => State.retarget_of_direct (room.mp free) plan direct, fun none_left => ?_⟩
    rw [State.retarget_of_none (none_left.imp_left (mt room.mpr))]
    refine ⟨fun fits => if_pos (stored.mp fits), fun full => ?_⟩
    rw [State.returnRequest, if_neg (mt stored.mpr full), State.refuse_eq]

end Sys2Proof.Machine
end

section
/-! The stages of an offer that look at the waiting lists (R64 to R68): their equations, and that they take entries from the
heads alone. -/

namespace Sys2Proof.Machine

namespace State

variable {s t : State} {c : CarrierId} {w : WaitEntry} {rest : List WaitEntry} {attempts : Bool} {n : Nat}

theorem fits_iff {r : Request} :
    s.fits c r = true ↔ c ∈ (s.group r.group).members ∧ r.units ≤ s.room c r.level ∧
      (if r.level = .e then 1 else 33) ≤ s.table.freeQueue.length := by
  rw [fits, Bool.and_eq_true, Bool.and_eq_true, decide_eq_true_iff, decide_eq_true_iff, tableHasRoom_iff, Nat.not_lt,
    and_assoc]

/-! ### Stage 2 -/

theorem stage2_of_empty (h : s.waiting.eList = []) (n : Nat) : stage2 c attempts (n + 1) s = s := by
  rw [stage2, h]

theorem stage2_of_fits (h : s.waiting.eList = w :: rest) (fits : s.fits c w.req = true) (n : Nat) :
    stage2 c attempts (n + 1) s = stage2 c attempts n (s.popE.createGrant w.req c) := by
  rw [stage2, h]
  exact if_pos fits

theorem stage2_of_case (h : s.waiting.eList = w :: rest) (fits : s.fits c w.req = false)
    (free : s.table.freeQueue ≠ []) (attempt : s.caseAttempt w.req = some t) (n : Nat) :
    stage2 c true (n + 1) s = stage2 c true n t.popE := by
  rw [stage2, h]
  simp [fits, free, attempt]

theorem stage2_of_no_case (h : s.waiting.eList = w :: rest) (fits : s.fits c w.req = false)
    (attempt : s.caseAttempt w.req = none) (n : Nat) : stage2 c attempts (n + 1) s = s := by
  rw [stage2, h]
  simp [fits, attempt]

theorem stage2_of_stop (h : s.waiting.eList = w :: rest) (fits : s.fits c w.req = false)
    (stop : attempts = false ∨ s.table.freeQueue = []) (n : Nat) : stage2 c attempts (n + 1) s = s := by
  rw [stage2, h]
  rcases stop with rfl | empty
  · simp [fits]
  · simp [fits, empty]

/-! ### The rotation -/

variable {m : MasterId} {l : Level} {passed : Nat}

theorem rotate_of_done (h : 4 ≤ passed) (n : Nat) : rotate c l (n + 1) m passed s = s := if_pos h

theorem rotate_of_empty (h : ¬4 ≤ passed) (empty : s.headOf l m = none) (n : Nat) :
    rotate c l (n + 1) m passed s = rotate c l n (m + 1) (passed + 1) s := by
  rw [rotate, if_neg h, empty]

theorem rotate_of_fits (h : ¬4 ≤ passed) (head : s.headOf l m = some w) (fits : s.fits c w.req = true) (n : Nat) :
    rotate c l (n + 1) m passed s =
      rotate c l n (m + 1) 0 (((s.popOf l m).createGrant w.req c).setPointer l (m + 1)) := by
  rw [rotate, if_neg h, head]
  exact if_pos fits

theorem rotate_of_case (h : ¬4 ≤ passed) (head : s.headOf .p1 m = some w) (fits : s.fits c w.req = false)
    (preempts : w.req.preempt = true) (room : s.tableHasRoom .p1 = true) (attempt : s.caseAttempt w.req = some t)
    (n : Nat) :
    rotate c .p1 (n + 1) m passed s = rotate c .p1 n (m + 1) 0 ((t.popOf .p1 m).setPointer .p1 (m + 1)) := by
  rw [rotate, if_neg h, head]
  simp [fits, preempts, room, attempt]

theorem rotate_of_no_case (h : ¬4 ≤ passed) (head : s.headOf l m = some w) (fits : s.fits c w.req = false)
    (attempt : s.caseAttempt w.req = none) (n : Nat) :
    rotate c l (n + 1) m passed s = rotate c l n (m + 1) (passed + 1) s := by
  rw [rotate, if_neg h, head]
  simp [fits, attempt]

theorem rotate_of_stop (h : ¬4 ≤ passed) (head : s.headOf l m = some w) (fits : s.fits c w.req = false)
    (stop : ¬(l = .p1 ∧ w.req.preempt = true ∧ s.tableHasRoom .p1 = true)) (n : Nat) :
    rotate c l (n + 1) m passed s = rotate c l n (m + 1) (passed + 1) s := by
  have no_attempt : ¬(decide (l = .p1) && w.req.preempt && s.tableHasRoom .p1) = true := by
    simpa [and_assoc] using stop
  rw [rotate, if_neg h, head]
  simp only [fits, Bool.false_eq_true, if_false, if_neg no_attempt]

theorem headOf_eq (m : MasterId) (hl : l = .p1 ∨ l = .p2) :
    s.headOf l m = (if l = .p1 then look s.waiting.p1Lists m else look s.waiting.p2Lists m).head? := by
  rcases hl with rfl | rfl <;> rfl

/-- A grant's creation does not look at the rotation pointers. -/
theorem createGrant_setPointer (s : State) (r : Request) (c : CarrierId) (l : Level) (m : MasterId) :
    (s.createGrant r c).setPointer l m = (s.setPointer l m).createGrant r c := by
  cases queue : s.table.freeQueue with
  | nil =>
    have same : (s.setPointer l m).table.freeQueue = [] := queue
    simp only [createGrant, queue, same]
  | cons i rest =>
    have same : (s.setPointer l m).table.freeQueue = i :: rest := queue
    rw [createGrant_of_cons queue, createGrant_of_cons same, offer_eq_modPort, offer_eq_modPort]
    rfl

end State

/-! ### Heads alone -/

/-- What is left of each list are its last entries. -/
structure Waiting.Behind (w v : Waiting) : Prop where
  e : v.eList <:+ w.eList
  p1 : ∀ m, look v.p1Lists m <:+ look w.p1Lists m
  p2 : ∀ m, look v.p2Lists m <:+ look w.p2Lists m

namespace Waiting.Behind

variable {w v u : Waiting}

theorem refl : Waiting.Behind w w := ⟨List.suffix_refl _, fun _ => List.suffix_refl _, fun _ => List.suffix_refl _⟩

theorem trans (h : Waiting.Behind w v) (k : Waiting.Behind v u) : Waiting.Behind w u :=
  ⟨k.e.trans h.e, fun m => (k.p1 m).trans (h.p1 m), fun m => (k.p2 m).trans (h.p2 m)⟩

end Waiting.Behind

namespace State

theorem behind_popE (s : State) : s.waiting.Behind s.popE.waiting :=
  ⟨List.tail_suffix _, fun _ => List.suffix_refl _, fun _ => List.suffix_refl _⟩

theorem behind_popOf (s : State) (l : Level) (m : MasterId) : s.waiting.Behind (s.popOf l m).waiting := by
  have tails (v : Vector (List WaitEntry) 4) (j : MasterId) : look (put v m (look v m).tail) j <:+ look v j := by
    by_cases same : j = m
    · subst same
      rw [look_put_same]
      exact List.tail_suffix _
    · rw [look_put_ne _ same]
  cases l with
  | e => exact s.behind_popE
  | p1 => exact ⟨List.suffix_refl _, tails _, fun _ => List.suffix_refl _⟩
  | p2 => exact ⟨List.suffix_refl _, fun _ => List.suffix_refl _, tails _⟩
  | p3 => exact .refl

/-- R65: stage 2 takes from the head of the E list, and from no other list. -/
theorem behind_stage2 (c : CarrierId) (attempts : Bool) (n : Nat) (s : State) :
    s.waiting.Behind (stage2 c attempts n s).waiting ∧
      (stage2 c attempts n s).waiting.p1Lists = s.waiting.p1Lists ∧
      (stage2 c attempts n s).waiting.p2Lists = s.waiting.p2Lists := by
  induction n generalizing s with
  | zero => exact ⟨.refl, rfl, rfl⟩
  | succ n ih =>
    have go (t : State) (h : t.waiting = s.popE.waiting) :
        s.waiting.Behind (stage2 c attempts n t).waiting ∧
          (stage2 c attempts n t).waiting.p1Lists = s.waiting.p1Lists ∧
          (stage2 c attempts n t).waiting.p2Lists = s.waiting.p2Lists := by
      obtain ⟨behind, p1, p2⟩ := ih t
      rw [h] at behind p1 p2
      exact ⟨s.behind_popE.trans behind, p1, p2⟩
    cases queue : s.waiting.eList with
    | nil =>
      rw [stage2_of_empty queue]
      exact ⟨.refl, rfl, rfl⟩
    | cons w rest =>
      cases fits : s.fits c w.req with
      | true =>
        rw [stage2_of_fits queue fits]
        exact go _ (waiting_createGrant _ _ _)
      | false =>
        by_cases stop : attempts = false ∨ s.table.freeQueue = []
        · rw [stage2_of_stop queue fits stop]
          exact ⟨.refl, rfl, rfl⟩
        · push Not at stop
          obtain ⟨on, free⟩ := stop
          obtain rfl : attempts = true := by simpa using on
          cases attempt : s.caseAttempt w.req with
          | none =>
            rw [stage2_of_no_case queue fits attempt]
            exact ⟨.refl, rfl, rfl⟩
          | some t =>
            rw [stage2_of_case queue fits free attempt]
            refine go t.popE ?_
            rw [popE, popE, waiting_modWaiting, waiting_modWaiting, waiting_caseAttempt attempt]

/-- R66: the rotation takes from the heads of its lists. -/
theorem behind_rotate (c : CarrierId) (l : Level) (n : Nat) (m : MasterId) (passed : Nat) (s : State) :
    s.waiting.Behind (rotate c l n m passed s).waiting := by
  induction n generalizing m passed s with
  | zero => exact .refl
  | succ n ih =>
    by_cases done : 4 ≤ passed
    · rw [rotate_of_done done]
      exact .refl
    cases head : s.headOf l m with
    | none =>
      rw [rotate_of_empty done head]
      exact ih _ _ _
    | some w =>
      cases fits : s.fits c w.req with
      | true =>
        rw [rotate_of_fits done head fits]
        refine Waiting.Behind.trans ?_ (ih _ _ _)
        rw [setPointer, waiting_modEngine, waiting_createGrant]
        exact s.behind_popOf l m
      | false =>
        by_cases tries : l = .p1 ∧ w.req.preempt = true ∧ s.tableHasRoom .p1 = true
        · obtain ⟨rfl, preempts, room⟩ := tries
          cases attempt : s.caseAttempt w.req with
          | none =>
            rw [rotate_of_no_case done head fits attempt]
            exact ih _ _ _
          | some t =>
            rw [rotate_of_case done head fits preempts room attempt]
            refine Waiting.Behind.trans ?_ (ih _ _ _)
            have popped := t.behind_popOf .p1 m
            rw [waiting_caseAttempt attempt] at popped
            exact popped
        · rw [rotate_of_stop done head fits tries]
          exact ih _ _ _

theorem behind_lists (s : State) (c : CarrierId) : s.waiting.Behind (s.lists c).waiting := by
  unfold lists
  split_ifs
  · exact ((behind_stage2 c true _ s).1.trans (behind_rotate _ _ _ _ _ _)).trans (behind_rotate _ _ _ _ _ _)
  · exact .refl

theorem recallUnit_createGrant (s : State) (r : Request) (c : CarrierId) :
    (s.createGrant r c).recallUnit = s.recallUnit := by
  cases queue : s.table.freeQueue with
  | nil => rw [createGrant, queue]
  | cons i rest =>
    rw [createGrant_of_cons queue, offer_eq_ports]
    rfl

/-- R68: without attempts, stage 2 opens no case. -/
theorem recallUnit_stage2 (c : CarrierId) (n : Nat) (s : State) : (stage2 c false n s).recallUnit = s.recallUnit := by
  induction n generalizing s with
  | zero => rfl
  | succ n ih =>
    cases queue : s.waiting.eList with
    | nil => rw [stage2_of_empty queue]
    | cons w rest =>
      cases fits : s.fits c w.req with
      | true =>
        rw [stage2_of_fits queue fits, ih, recallUnit_createGrant]
        rfl
      | false => rw [stage2_of_stop queue fits (.inl rfl)]

/-- One carrier of a table retry (R68). -/
def retryOn (s : State) (c : CarrierId) : State :=
  if s.eligible c && !s.waiting.eList.isEmpty && !s.table.freeQueue.isEmpty then
    stage2 c false (s.waiting.eList.length + 1) s
  else s

theorem tableRetry_eq (s : State) :
    s.tableRetry = (allCarriers.foldl retryOn (s.modEngine fun e => { e with retryDue := false })).evalQuota := rfl

theorem retryOn_keeps (s : State) (c : CarrierId) :
    s.waiting.Behind (s.retryOn c).waiting ∧ (s.retryOn c).waiting.p1Lists = s.waiting.p1Lists ∧
      (s.retryOn c).waiting.p2Lists = s.waiting.p2Lists ∧ (s.retryOn c).recallUnit = s.recallUnit := by
  unfold retryOn
  split_ifs
  · obtain ⟨behind, p1, p2⟩ := behind_stage2 c false (s.waiting.eList.length + 1) s
    exact ⟨behind, p1, p2, recallUnit_stage2 _ _ _⟩
  · exact ⟨.refl, rfl, rfl, rfl⟩

theorem tableRetry_keeps (s : State) :
    s.waiting.Behind s.tableRetry.waiting ∧ s.tableRetry.waiting.p1Lists = s.waiting.p1Lists ∧
      s.tableRetry.waiting.p2Lists = s.waiting.p2Lists ∧ s.tableRetry.recallUnit = s.recallUnit := by
  have fold (l : List CarrierId) (t : State) :
      t.waiting.Behind (l.foldl retryOn t).waiting ∧ (l.foldl retryOn t).waiting.p1Lists = t.waiting.p1Lists ∧
        (l.foldl retryOn t).waiting.p2Lists = t.waiting.p2Lists ∧ (l.foldl retryOn t).recallUnit = t.recallUnit := by
    induction l generalizing t with
    | nil => exact ⟨.refl, rfl, rfl, rfl⟩
    | cons c rest ih =>
      obtain ⟨behind, p1, p2, unit⟩ := t.retryOn_keeps c
      obtain ⟨behind', p1', p2', unit'⟩ := ih (t.retryOn c)
      exact ⟨behind.trans behind', p1'.trans p1, p2'.trans p2, unit'.trans unit⟩
  obtain ⟨-, waiting, unit, -⟩ :=
    evalQuota_keeps (allCarriers.foldl retryOn (s.modEngine fun e => { e with retryDue := false }))
  rw [tableRetry_eq, waiting, unit]
  exact fold allCarriers (s.modEngine fun e => { e with retryDue := false })

end State

end Sys2Proof.Machine
end

section
/-! The end of a claim (R8, R12, R19): the OVER episodes that end with it, and the QUOTA_EXCESS conditions. -/

namespace Sys2Proof.Machine

namespace State

variable {s : State}

/-! ### OVER episodes -/

/-- The episode of a carrier ends with the claim (R8). -/
def episodeEnds (s : State) (c : CarrierId) : Bool := (s.carrier c).isOver && decide (s.occupied c ≤ s.effective c)

theorem evalOverOf_eq (s : State) (c : CarrierId) :
    s.evalOverOf c = if s.episodeEnds c = true then s.endEpisode c else s := rfl

theorem carrier_endEpisode (s : State) (c d : CarrierId) :
    (s.endEpisode c).carrier d = if d = c then { s.carrier d with isOver := false, marks := [] } else s.carrier d := by
  rw [endEpisode_eq]
  change look (put s.pool.carriers c { s.carrier c with isOver := false, marks := [] }) d = _
  rw [look_put]
  split_ifs with same
  · rw [same]
  · rfl

theorem occupied_endEpisode (s : State) (c d : CarrierId) : (s.endEpisode c).occupied d = s.occupied d := by
  have list : ((s.endEpisode c).carrier d).occupancy = (s.carrier d).occupancy := by
    rw [carrier_endEpisode]
    split_ifs <;> rfl
  rw [occupied, list, endEpisode_eq]
  rfl

theorem effective_endEpisode (s : State) (c d : CarrierId) : (s.endEpisode c).effective d = s.effective d := by
  simp only [effective, carrier_endEpisode]
  split_ifs <;> rfl

theorem episodeEnds_evalOverOf (s : State) {c d : CarrierId} (other : d ≠ c) :
    (s.evalOverOf c).episodeEnds d = s.episodeEnds d := by
  rw [evalOverOf_eq]
  split_ifs
  · rw [episodeEnds, occupied_endEpisode, effective_endEpisode, carrier_endEpisode, if_neg other]
    rfl
  · rfl

/-- What the evaluation of OVER on the carriers of a list leaves. -/
theorem foldl_evalOverOf (l : List CarrierId) (once : l.Nodup) (s : State) :
    ∃ u : State, l.foldl evalOverOf s = u ∧
      u = { s with pool := { s.pool with carriers := u.pool.carriers }, engine := { s.engine with due := u.engine.due } } ∧
      (∀ d, u.carrier d =
        if d ∈ l ∧ s.episodeEnds d = true then { s.carrier d with isOver := false, marks := [] } else s.carrier d) ∧
      u.engine.due = s.engine.due ++ l.filter fun d => s.episodeEnds d && !s.engine.due.contains d := by
  induction l generalizing s with
  | nil => exact ⟨s, rfl, rfl, fun d => by simp, by simp⟩
  | cons c rest ih =>
    rw [List.nodup_cons] at once
    obtain ⟨fresh, once⟩ := once
    obtain ⟨u, folded, whole, carriers, due⟩ := ih once (s.evalOverOf c)
    have others : ∀ d ∈ rest, d ≠ c := fun d mem same => fresh (same ▸ mem)
    have step : s.evalOverOf c = { s with
        pool := { s.pool with carriers := (s.evalOverOf c).pool.carriers }
        engine := { s.engine with due := (s.evalOverOf c).engine.due } } := by
      rw [evalOverOf_eq]
      split_ifs
      · rw [endEpisode_eq]
      · rfl
    have stepDue : (s.evalOverOf c).engine.due =
        s.engine.due ++ [c].filter fun d => s.episodeEnds d && !s.engine.due.contains d := by
      rw [evalOverOf_eq]
      by_cases ends : s.episodeEnds c = true
      · rw [if_pos ends, endEpisode_eq]
        by_cases listed : c ∈ s.engine.due <;> simp [ends, listed]
      · simp [ends]
    have stepCarrier (d : CarrierId) : (s.evalOverOf c).carrier d =
        if d = c ∧ s.episodeEnds c = true then { s.carrier d with isOver := false, marks := [] } else s.carrier d := by
      rw [evalOverOf_eq]
      by_cases ends : s.episodeEnds c = true
      · rw [if_pos ends, carrier_endEpisode]
        simp [ends]
      · simp [ends]
    refine ⟨u, folded, ?_, fun d => ?_, ?_⟩
    · rw [step] at whole
      exact whole
    · rw [carriers, stepCarrier]
      by_cases same : d = c
      · subst same
        simp [fresh]
      · rw [episodeEnds_evalOverOf s same]
        simp [same]
    · have later : (rest.filter fun d => (s.evalOverOf c).episodeEnds d && !(s.evalOverOf c).engine.due.contains d) =
          rest.filter fun d => s.episodeEnds d && !s.engine.due.contains d := by
        refine List.filter_congr fun d mem => ?_
        have other := others d mem
        rw [episodeEnds_evalOverOf s other, stepDue]
        by_cases added : (s.episodeEnds c && !s.engine.due.contains c) = true <;> simp [other]
      rw [due, later, stepDue, List.append_assoc, ← List.filter_append]
      rfl

/-! ### QUOTA_EXCESS -/

/-- The condition of a master (R19). -/
def exceeds (s : State) (m : MasterId) : Bool := decide ((s.master m).ceiling < s.nonEUnits m)

end State

/-- What a fault event makes of a port: a flag that was not set is set, and FAULT has been offered (R155). -/
def Port.afterFault (p : Port) (f : FaultFlag) : Port :=
  if p.flags.has f = true then p else { p with flags := p.flags.insert f }.afterOffer (.fault (p.flags.insert f))

/-- What the evaluation of its master's condition makes of a port: it is a fault event when the condition became true. -/
def Port.afterQuota (p : Port) (holds held : Bool) : Port :=
  if holds = true ∧ held = false then p.afterFault .quotaExcess else p

namespace State

theorem modPort_modPort (s : State) (m : MasterId) (f g : Port → Port) :
    (s.modPort m f).modPort m g = s.modPort m fun p => g (f p) := by
  simp only [modPort, look_put_same, put_put]

theorem setFault_eq_modPort (s : State) (m : MasterId) (f : FaultFlag) :
    s.setFault m f = s.modPort m fun p => p.afterFault f := by
  by_cases set : (s.port m).flags.has f = true
  · rw [setFault_of_set set]
    exact (modPort_of_eq (f := fun p => p.afterFault f) (if_pos set)).symm
  · have clear : (s.port m).flags.has f = false := by simpa using set
    rw [setFault_of_clear clear, offer_eq_modPort, modPort_modPort]
    refine modPort_congr ?_
    exact (if_neg set).symm

theorem evalQuotaOf_eq (s : State) (m : MasterId) :
    s.evalQuotaOf m =
      (s.modMaster m fun r => { r with quotaExcess := s.exceeds m }).modPort m fun p =>
        p.afterQuota (s.exceeds m) (s.master m).quotaExcess := by
  by_cases same : s.exceeds m = (s.master m).quotaExcess
  · have written : (s.modMaster m fun r => { r with quotaExcess := s.exceeds m }) = s := by
      rw [same]
      change { s with pool := { s.pool with masters := put s.pool.masters m (look s.pool.masters m) } } = s
      rw [put_look]
    have calm : ¬(s.exceeds m = true ∧ (s.master m).quotaExcess = false) := by simp [same]
    rw [written]
    exact Eq.trans (if_pos same) (modPort_of_eq (f := fun p => p.afterQuota (s.exceeds m) (s.master m).quotaExcess)
      (if_neg calm)).symm
  have changed : s.evalQuotaOf m =
      if s.exceeds m then (s.modMaster m fun r => { r with quotaExcess := s.exceeds m }).setFault m .quotaExcess
      else s.modMaster m fun r => { r with quotaExcess := s.exceeds m } := if_neg same
  rw [changed]
  split_ifs with holds
  · have held : (s.master m).quotaExcess = false := by simpa [holds] using same
    rw [setFault_eq_modPort]
    exact modPort_congr (if_pos ⟨holds, held⟩).symm
  · exact (modPort_of_eq (f := fun p => p.afterQuota (s.exceeds m) (s.master m).quotaExcess)
      (if_neg fun h => holds h.1)).symm

theorem master_evalQuotaOf (s : State) (m j : MasterId) :
    (s.evalQuotaOf m).master j =
      if j = m then { s.master j with quotaExcess := s.exceeds j } else s.master j := by
  rw [evalQuotaOf_eq]
  change look (put s.pool.masters m { s.master m with quotaExcess := s.exceeds m }) j = _
  rw [look_put]
  split_ifs with same
  · rw [same]
  · rfl

theorem port_evalQuotaOf (s : State) (m j : MasterId) :
    (s.evalQuotaOf m).port j =
      if j = m then (s.port j).afterQuota (s.exceeds j) (s.master j).quotaExcess else s.port j := by
  rw [evalQuotaOf_eq]
  change look (put s.ports m ((s.port m).afterQuota (s.exceeds m) (s.master m).quotaExcess)) j = _
  rw [look_put]
  split_ifs with same
  · rw [same]
  · rfl

theorem exceeds_evalQuotaOf (s : State) (m j : MasterId) : (s.evalQuotaOf m).exceeds j = s.exceeds j := by
  have ceiling : ((s.evalQuotaOf m).master j).ceiling = (s.master j).ceiling := by
    rw [master_evalQuotaOf]
    split_ifs <;> rfl
  rw [exceeds, ceiling, evalQuotaOf_eq]
  rfl

/-- What the evaluation of the conditions of a list of masters leaves. -/
theorem foldl_evalQuotaOf (l : List MasterId) (once : l.Nodup) (s : State) :
    ∃ u : State, l.foldl evalQuotaOf s = u ∧
      u = { s with ports := u.ports, pool := { s.pool with masters := u.pool.masters } } ∧
      (∀ j, u.master j = if j ∈ l then { s.master j with quotaExcess := s.exceeds j } else s.master j) ∧
      ∀ j, u.port j =
        if j ∈ l then (s.port j).afterQuota (s.exceeds j) (s.master j).quotaExcess else s.port j := by
  induction l generalizing s with
  | nil => exact ⟨s, rfl, rfl, fun j => by simp, fun j => by simp⟩
  | cons m rest ih =>
    rw [List.nodup_cons] at once
    obtain ⟨fresh, once⟩ := once
    obtain ⟨u, folded, whole, masters, ports⟩ := ih once (s.evalQuotaOf m)
    refine ⟨u, folded, ?_, fun j => ?_, fun j => ?_⟩
    · rw [evalQuotaOf_eq] at whole
      exact whole
    · rw [masters, master_evalQuotaOf, exceeds_evalQuotaOf]
      by_cases same : j = m
      · subst same
        simp [fresh]
      · simp [same]
    · rw [ports, port_evalQuotaOf, master_evalQuotaOf, exceeds_evalQuotaOf]
      by_cases same : j = m
      · subst same
        simp [fresh]
      · simp [same]

end State

end Sys2Proof.Machine
end

section
/-! What follows a claim (R62 to R68, R75, R76, R100): the top-up of a case, and the statement about offers. -/

namespace Sys2Proof.Machine

/-- A sum over a vector of which one value is replaced. -/
theorem sum_map_put {α : Type} {n : Nat} (f : α → Nat) (v : Vector α n) (i : Fin n) (x : α) :
    ((put v i x).toList.map f).sum + f (look v i) = (v.toList.map f).sum + f x := by
  have h : i.val < v.toList.length := by simp
  have e : v.toList[i.val] = look v i := by simp [look]
  have split : v.toList = v.toList.take i.val ++ look v i :: v.toList.drop (i.val + 1) := by
    rw [← e, List.getElem_cons_drop, List.take_append_drop]
  have set : (put v i x).toList = v.toList.take i.val ++ x :: v.toList.drop (i.val + 1) := by
    rw [put, Vector.toList_set, List.set_eq_take_append_cons_drop, if_pos h]
  rw [set]
  conv_rhs => rw [split]
  simp only [List.map_append, List.map_cons, List.sum_append, List.sum_cons]
  omega

namespace State

variable {s : State} {c : CarrierId} {k : CaseId} {x : Case}

theorem topUp_of_other (collecting : s.caseAt k = some x) (other : x.target ≠ c) : topUp c s k = s := by
  rw [topUp, collecting]
  exact if_neg other

theorem topUp_of_target (collecting : s.caseAt k = some x) (target : x.target = c) :
    topUp c s k =
      (s.setCase k (some { x with
        earmark := x.earmark + min (x.req.units - x.earmark) (s.room c x.req.level) })).trySettle k := by
  rw [topUp, collecting]
  simp only [if_pos target]
  rw [addEarmark, modCase_of_some collecting]
  rfl

/-- The units that join a case's earmark are occupied on its target (R5, R13). -/
theorem occupied_setCase (collecting : s.caseAt k = some x) (n : Nat) :
    (s.setCase k (some { x with earmark := x.earmark + n })).occupied x.target = s.occupied x.target + n := by
  have sum := sum_map_put (earmarkOn x.target) s.recallUnit.cases k (some { x with earmark := x.earmark + n })
  have old : earmarkOn x.target (look s.recallUnit.cases k) = x.earmark := by
    rw [show look s.recallUnit.cases k = some x from collecting]
    exact if_pos rfl
  have new : earmarkOn x.target (some { x with earmark := x.earmark + n }) = x.earmark + n := if_pos rfl
  have earmarked : (s.setCase k (some { x with earmark := x.earmark + n })).earmarked x.target =
      s.earmarked x.target + n := by
    rw [old, new] at sum
    change ((put s.recallUnit.cases k _).toList.map (earmarkOn x.target)).sum =
      (s.recallUnit.cases.toList.map (earmarkOn x.target)).sum + n
    omega
  rw [occupied, earmarked, ← Nat.add_assoc]
  rfl

theorem topUpInTurn_of_ended {rest : List CaseId} (ended : (topUp c s k).caseAt k = none) :
    topUpInTurn c (k :: rest) s = topUpInTurn c rest (topUp c s k) := if_pos (by rw [ended]; rfl)

theorem topUpInTurn_of_short {rest : List CaseId} (short : (topUp c s k).caseAt k ≠ none) :
    topUpInTurn c (k :: rest) s = topUp c s k := if_neg (by simpa using short)

theorem lists_of_closed (closed : (s.carrier c).state ≠ .opened ∨ (s.carrier c).isOver = true) : s.lists c = s := by
  refine if_neg ?_
  rw [eligible_iff, not_and_or, Bool.not_eq_false]
  exact closed

theorem lists_of_open (opened : (s.carrier c).state = .opened) (under : (s.carrier c).isOver = false) :
    s.lists c = ((stage2 c true (s.waiting.eList.length + 1) s).rotation c .p1).rotation c .p2 :=
  if_pos (eligible_iff.mpr ⟨opened, under⟩)

end State

/-- Settles O40. -/
theorem offersTakeFromTheHeads : Obligations.OffersTakeFromTheHeads := by
  refine ⟨?_, ?_, ?_, ?_, ?_, ?_, ?_, ?_, ?_⟩
  · intro c s
    obtain ⟨e, p1, p2⟩ := s.behind_lists c
    obtain ⟨behind, retryP1, retryP2, unit⟩ := s.tableRetry_keeps
    refine ⟨e, p1, p2, State.lists_of_closed, behind.e, fun m => by rw [retryP1], fun m => by rw [retryP2], ?_, ?_, unit⟩
    · rw [State.engine_tableRetry]
    · rw [State.engine_tableRetry]
  · intro s ends
    obtain ⟨v, folded, whole, carriers, due⟩ := State.foldl_evalOverOf (List.finRange 12) (List.nodup_finRange 12) s
    have closed : s.finish = v.dropOverDue.evalQuota.continuation := by
      rw [← folded, ← allCarriers_eq]
      rfl
    refine ⟨v.dropOverDue, closed, ?_, fun c => ?_, ?_⟩
    · rw [State.dropOverDue, whole]
      rfl
    · refine (carriers c).trans ?_
      simp only [List.mem_finRange, true_and]
      rfl
    · rw [State.dropOverDue, State.engine_modEngine, due]
      rfl
  · intro s t excess
    obtain ⟨v, folded, whole, masters, ports⟩ := State.foldl_evalQuotaOf allMasters (by decide) s
    have t_eq : t = v := folded
    rw [t_eq]
    have all (m : MasterId) : m ∈ allMasters := mem_allMasters m
    refine ⟨whole, fun m => ?_, ?_⟩
    · rw [masters, if_pos (all m)]
      rfl
    · intro m flags told
      have port : v.port m = (s.port m).afterQuota (s.exceeds m) (s.master m).quotaExcess := by
        rw [ports, if_pos (all m)]
      have becomes : s.exceeds m = true ↔ excess m := decide_eq_true_iff
      rw [port, Port.afterQuota]
      refine ⟨fun ⟨high, held, clear⟩ => ?_, fun h => ?_⟩
      · rw [if_pos ⟨becomes.mpr high, held⟩, State.port_offer_self, State.port_modPort_same]
        exact if_neg (by simpa [FaultFlags.has] using clear)
      · split_ifs with c
        · obtain ⟨high, held⟩ := c
          have set : (s.port m).flags.quotaExcess = true := by
            by_contra clear
            exact h ⟨becomes.mp high, held, by simpa using clear⟩
          exact if_pos set
        · rfl
  · intro s
    obtain ⟨due, retry⟩ := s.engine_continuation
    refine ⟨State.continuation_nil, fun c rest => State.continuation_cons, due, retry, ?_⟩
    rw [State.tableRetry_eq, allCarriers_eq]
    refine congrArg State.evalQuota (congrArg (fun f => List.foldl f _ _) (funext fun u => funext fun c => ?_))
    have condition : (u.eligible c && !u.waiting.eList.isEmpty && !u.table.freeQueue.isEmpty) = true ↔
        (u.carrier c).state = .opened ∧ (u.carrier c).isOver = false ∧ u.waiting.eList ≠ [] ∧ u.table.freeQueue ≠ [] := by
      simp [State.eligible, and_assoc]
    by_cases goes : (u.carrier c).state = .opened ∧ (u.carrier c).isOver = false ∧ u.waiting.eList ≠ [] ∧
        u.table.freeQueue ≠ []
    · rw [State.retryOn, if_pos goes, if_pos (condition.mpr goes)]
    · rw [State.retryOn, if_neg goes, if_neg (mt condition.mp goes)]
  · intro c s rest
    refine ⟨fun over_ => if_pos over_, fun under => if_neg (by simp [under]), ?_, fun opened under => ?_,
      fun r => State.fits_iff⟩
    · refine congrArg (fun l => State.topUpInTurn c l s) (List.filter_congr fun k _ => ?_)
      cases s.caseAt k <;> rfl
    · exact State.lists_of_open opened under
  · exact fun c k rest s => ⟨rfl, State.topUpInTurn_of_ended, State.topUpInTurn_of_short⟩
  · intro c k x s collecting
    refine ⟨State.topUp_of_other collecting, ?_⟩
    intro target units filled
    refine ⟨State.topUp_of_target collecting target, ?_⟩
    subst target
    exact State.occupied_setCase collecting units
  · intro c attempts n s
    refine ⟨fun empty => State.stage2_of_empty empty n, ?_⟩
    intro w rest queue popped
    refine ⟨fun fits => State.stage2_of_fits queue fits n, fun fits on free => ?_,
      fun fits stop => State.stage2_of_stop queue fits stop n⟩
    subst on
    exact ⟨fun t attempt => State.stage2_of_case queue fits free attempt n,
      fun attempt => State.stage2_of_no_case queue fits attempt n⟩
  · intro c l n passed m s level list served passOver
    have head : s.headOf l m = list.head? := State.headOf_eq m level
    have leaves (u : State) : (u.popOf l m).setPointer l (m + 1) = served u := by
      rcases level with rfl | rfl <;> rfl
    refine ⟨fun done => State.rotate_of_done done n, fun more empty => ?_, ?_⟩
    · exact State.rotate_of_empty (Nat.not_le.mpr more) (by rw [head, empty]; rfl) n
    · intro w rest more first attempts
      have going := Nat.not_le.mpr more
      have at_head : s.headOf l m = some w := by
        rw [head, first]
        rfl
      have room : s.tableHasRoom .p1 = true ↔ 33 ≤ s.table.freeQueue.length := by
        rw [State.tableHasRoom_iff, Nat.not_lt]
        rfl
      refine ⟨fun fits => ?_, fun fits tries => ?_, fun fits stop => ?_⟩
      · rw [State.rotate_of_fits going at_head fits, State.createGrant_setPointer, leaves]
      · obtain ⟨rfl, preempts, free⟩ := tries
        refine ⟨fun t attempt => ?_, fun attempt => State.rotate_of_no_case going at_head fits attempt n⟩
        rw [State.rotate_of_case going at_head fits preempts (room.mpr free) attempt, leaves]
      · exact State.rotate_of_stop going at_head fits
          (fun ⟨p1, preempts, free⟩ => stop ⟨p1, preempts, room.mp free⟩) n

end Sys2Proof.Machine
end

section
/-! How a link event ends a master's pending work (R82, R104), and how it frees grants that no case waits for (R58, R59). -/

namespace Sys2Proof.Machine

/-! ### The pending work of a master -/

/-- What abandoning the cases of a list leaves: those records FREE, the grants attached to them detached, and the due list
with what it held. -/
structure Abandons (l : List CaseId) (s t : State) : Prop where
  whole : t = { s with
    table := { s.table with entries := t.table.entries }
    recallUnit := { s.recallUnit with cases := t.recallUnit.cases, age := t.recallUnit.age }
    engine := { s.engine with due := t.engine.due } }
  cases : ∀ j, t.caseAt j = if j ∈ l then none else s.caseAt j
  entries : ∀ i, look t.table.entries i = look s.table.entries i ∨
    ∃ g cause d j, j ∈ l ∧ (s.caseAt j).isSome = true ∧ (look s.table.entries i).grant = some g ∧
      g.phase = .recalled cause d (some j) ∧
      look t.table.entries i = ⟨(look s.table.entries i).gen, some { g with phase := .recalled cause d none }⟩
  due : s.engine.due ⊆ t.engine.due

namespace State

variable {s t : State} {m : MasterId}

theorem caseAt_freeCase (s : State) (k j : CaseId) : (s.freeCase k).caseAt j = if j = k then none else s.caseAt j := by
  by_cases same : j = k
  · subst same
    rw [if_pos rfl, caseAt_freeCase_same]
  · rw [if_neg same]
    exact look_put_ne _ same _

theorem subset_due_returnUnits (s : State) (c : CarrierId) (u : Nat) :
    s.engine.due ⊆ (s.returnUnits c u).engine.due := by
  rw [returnUnits_eq]
  dsimp only
  split_ifs
  · exact List.Subset.refl _
  · exact List.subset_append_left _ _

/-- R14: a number above 0 makes the carrier due. -/
theorem mem_due_returnUnits (s : State) (c : CarrierId) (u : Nat) : u = 0 ∨ c ∈ (s.returnUnits c u).engine.due := by
  rw [returnUnits_eq]
  dsimp only
  by_cases zero : u = 0
  · exact .inl zero
  · by_cases listed : c ∈ s.engine.due <;> simp [zero, listed]

theorem abandons_one (s : State) (k : CaseId) : Abandons [k] s (s.abandon k) := by
  cases collecting : s.caseAt k with
  | none =>
    have same : s.abandon k = s := by rw [abandon, collecting]
    rw [same]
    refine ⟨rfl, fun j => ?_, fun i => .inl rfl, List.Subset.refl _⟩
    split_ifs with mem
    · rw [List.mem_singleton.mp mem, collecting]
    · rfl
  | some x =>
    have ends : s.abandon k = ((s.detachAll k x).freeCase k).returnUnits x.target x.earmark := by
      rw [abandon, collecting]
    obtain ⟨-, -, entries⟩ := Spares.table_detachAll s k x
    have detached := s.detachAll_eq_entries k x
    refine ⟨?_, fun j => ?_, fun i => ?_, ?_⟩
    · rw [ends, returnUnits_eq, detached]
      rfl
    · rw [ends, caseAt_returnUnits, caseAt_freeCase, caseAt_detachAll]
      simp only [List.mem_singleton]
    · have table : (s.abandon k).table = (s.detachAll k x).table := by
        rw [ends, table_returnUnits]
        rfl
      rw [table]
      rcases entries i with same | ⟨g, cause, d, holds, phase, lost⟩
      · exact .inl same
      · exact .inr ⟨g, cause, d, k, List.mem_singleton_self k, by rw [collecting]; rfl, holds, phase, lost⟩
    · rw [ends]
      refine List.Subset.trans ?_ (subset_due_returnUnits _ _ _)
      rw [detached]
      exact List.Subset.refl _

theorem abandons_all (l : List CaseId) (s : State) : Abandons l s (l.foldl abandon s) := by
  induction l generalizing s with
  | nil => exact ⟨rfl, fun j => by simp, fun i => .inl rfl, List.Subset.refl _⟩
  | cons k rest ih =>
    obtain ⟨whole, cases, entries, due⟩ := s.abandons_one k
    rw [List.foldl_cons]
    obtain ⟨whole', cases', entries', due'⟩ := ih (s.abandon k)
    generalize rest.foldl abandon (s.abandon k) = u at whole' cases' entries' due' ⊢
    refine ⟨?_, fun j => ?_, fun i => ?_, List.Subset.trans due due'⟩
    · rw [whole] at whole'
      exact whole'
    · rw [cases' j, cases j]
      by_cases here : j ∈ rest
      · simp [here]
      · simp [here]
    · have still (j : CaseId) (h : ((s.abandon k).caseAt j).isSome = true) : (s.caseAt j).isSome = true := by
        rw [cases j] at h
        split_ifs at h
        · cases h
        · exact h
      rcases entries i with same | ⟨g, cause, d, j, mem, open_, holds, phase, lost⟩
      · rcases entries' i with same' | ⟨g, cause, d, j, mem, open_, holds, phase, lost⟩
        · exact .inl (same'.trans same)
        · rw [same] at holds lost
          exact .inr ⟨g, cause, d, j, List.mem_cons_of_mem _ mem, still j open_, holds, phase, lost⟩
      · refine .inr ⟨g, cause, d, j, ?_, open_, holds, phase, ?_⟩
        · rw [List.mem_singleton.mp mem]
          exact List.mem_cons_self
        · rcases entries' i with same' | ⟨g', cause', d', j', -, -, holds', phase', -⟩
          · exact same'.trans lost
          · rw [lost] at holds'
            cases holds'
            cases phase'

theorem mem_casesOf {k : CaseId} : k ∈ s.casesOf m ↔ k ∈ s.recallUnit.age ∧ ∃ x, s.caseAt k = some x ∧ x.req.owner = m := by
  rw [casesOf, List.mem_filter]
  refine and_congr_right fun _ => ?_
  cases s.caseAt k <;> simp

/-- R82, R104: the pending work of a master ends, by what it leaves. -/
theorem abandons_dropPending (s : State) (m : MasterId) : Abandons (s.casesOf m) (s.flushWaiting m) (s.dropPending m) :=
  abandons_all _ _

/-- Of the state the end of the pending work changes only these. -/
theorem dropPending_eq (s : State) (m : MasterId) :
    s.dropPending m = { s with
      waiting := (s.flushWaiting m).waiting
      table := { s.table with entries := (s.dropPending m).table.entries }
      recallUnit := { s.recallUnit with
        cases := (s.dropPending m).recallUnit.cases, age := (s.dropPending m).recallUnit.age }
      engine := { s.engine with due := (s.dropPending m).engine.due } } :=
  (s.abandons_dropPending m).whole

/-- No entry of a list waits under the master once its entries are flushed. -/
theorem not_waitsUnder_flushWaiting (s : State) (m : MasterId) (tag : Half) : ¬(s.flushWaiting m).WaitsUnder m tag := by
  rintro (⟨w, mem, own, -⟩ | ⟨w, mem, -⟩ | ⟨w, mem, -⟩)
  · exact of_decide_eq_true (List.mem_filter.mp mem).2 own
  · rw [flushWaiting, waiting_modWaiting, look_put_same] at mem
    cases mem
  · rw [flushWaiting, waiting_modWaiting, look_put_same] at mem
    cases mem

/-- With its pending work ended, the master has nothing pending. -/
theorem nothingPending_dropPending (age : s.recallUnit.AgeAgrees) (m : MasterId) (tag : Half) :
    ¬(s.dropPending m).WaitsUnder m tag ∧ ∀ k, ¬(s.dropPending m).CaseUnder m tag k := by
  refine ⟨fun waits => not_waitsUnder_flushWaiting s m tag ?_, fun k ⟨x, collecting, own, _⟩ => ?_⟩
  · rw [dropPending_eq] at waits
    exact waits
  · rw [(s.abandons_dropPending m).cases] at collecting
    split_ifs at collecting with mine
    have listed : k ∈ s.recallUnit.age := (age.2 k).mpr (by
      rw [show look s.recallUnit.cases k = some x from collecting]
      rfl)
    exact mine (mem_casesOf.mpr ⟨listed, x, collecting, own⟩)

/-- An entry once the master's pending work has ended: as it was, or detached from one of the master's cases. -/
theorem entry_dropPending (s : State) (m : MasterId) (i : GrantIndex) :
    look (s.dropPending m).table.entries i = look s.table.entries i ∨
    ∃ g cause d j, (look s.table.entries i).grant = some g ∧ g.phase = .recalled cause d (some j) ∧
      (∃ tag, s.CaseUnder m tag j) ∧ (s.dropPending m).caseAt j = none ∧
      look (s.dropPending m).table.entries i =
        ⟨(look s.table.entries i).gen, some { g with phase := .recalled cause d none }⟩ := by
  rcases (s.abandons_dropPending m).entries i with same | ⟨g, cause, d, j, mine, -, holds, phase, lost⟩
  · exact .inl same
  · obtain ⟨-, x, collecting, own⟩ := mem_casesOf.mp mine
    refine .inr ⟨g, cause, d, j, holds, phase, ⟨x.req.tag, x, collecting, own, rfl⟩, ?_, lost⟩
    rw [(s.abandons_dropPending m).cases, if_pos mine]

/-! ### One grant of a link event -/

theorem grantAt_handleOf (s : State) (i : GrantIndex) : s.grantAt (s.handleOf i) = (look s.table.entries i).grant :=
  if_pos rfl

variable {fate : Grant → GrantFate} {i : GrantIndex} {g : Grant}

theorem meetFate_of_free (free : (look s.table.entries i).grant = none) : meetFate m fate s i = s := by
  rw [meetFate, free]

theorem meetFate_of_other (holds : (look s.table.entries i).grant = some g) (other : g.owner ≠ m) :
    meetFate m fate s i = s := by
  rw [meetFate, holds]
  exact if_neg other

theorem meetFate_of_kept (holds : (look s.table.entries i).grant = some g) (kept : fate g = .kept) :
    meetFate m fate s i = s := by
  rw [meetFate, holds]
  simp only [kept, ite_self]

theorem meetFate_of_freed (holds : (look s.table.entries i).grant = some g) (own : g.owner = m)
    (freed : fate g = .freed) :
    meetFate m fate s i = (s.freeGrant (s.handleOf i)).trySettleAttached g.phase.attached := by
  rw [meetFate, holds]
  simp only [own, freed, if_true]

theorem meetFate_of_revoked (holds : (look s.table.entries i).grant = some g) (own : g.owner = m)
    (revoked : fate g = .revokedOrphan) :
    meetFate m fate s i =
      (s.revoke (s.handleOf i) .orphan g.phase.unitsTo).trySettleAttached g.phase.attached := by
  rw [meetFate, holds]
  simp only [own, revoked, if_true]

end State

/-- The grant holds a place on its carrier's list: it is no tombstone. -/
def GrantPhase.isListed : GrantPhase → Bool
  | .revoked _ => false
  | .held _ | .active | .recalled .. => true

namespace State

variable {s : State} {m : MasterId} {fate : Grant → GrantFate} {i : GrantIndex} {g : Grant}

/-- A grant that no case waits for is freed: what of the state that changes. -/
theorem freeGrant_unattached (holds : (look s.table.entries i).grant = some g) (alone : g.phase.attached = none) :
    ∃ tombstones carriers engine,
      s.freeGrant (s.handleOf i) = { s with
        table := {
          entries := put s.table.entries i ⟨(look s.table.entries i).gen + 1, none⟩
          freeQueue := s.table.freeQueue ++ [i]
          tombstones := tombstones }
        pool := { s.pool with carriers := carriers }
        engine := engine } ∧
      (g.phase.isListed = true → tombstones = s.table.tombstones) ∧
      (∀ c, (look carriers c).occupancy =
        if g.phase.isListed = true ∧ g.carrier = c then (s.carrier c).occupancy.erase (s.handleOf i)
        else (s.carrier c).occupancy) ∧
      s.engine.due ⊆ engine.due ∧ (g.phase.isListed = true → g.units = 0 ∨ g.carrier ∈ engine.due) := by
  have named : s.grantAt (s.handleOf i) = some g := (s.grantAt_handleOf i).trans holds
  by_cases revoked : ∃ cause, g.phase = .revoked cause
  · obtain ⟨cause, phase⟩ := revoked
    have off : g.phase.isListed = false := by rw [phase]; rfl
    rw [freeGrant_of_revoked named phase, recycle_eq]
    refine ⟨_, s.pool.carriers, _, rfl, fun on => ?_, fun c => ?_, List.Subset.refl _, fun on => ?_⟩
    · rw [off] at on
      cases on
    · rw [off]
      rfl
    · rw [off] at on
      cases on
  · have listed : ∀ cause, g.phase ≠ .revoked cause := not_exists.mp revoked
    have on : g.phase.isListed = true := by
      cases phase : g.phase with
      | revoked cause => exact absurd phase (listed cause)
      | held d => rfl
      | active => rfl
      | recalled cause d j => rfl
    have unattached : ∀ cause d j, g.phase ≠ .recalled cause d (some j) := fun cause d j phase => by
      rw [phase] at alone
      cases alone
    rw [freeGrant_of_listed named listed, leave_of_alone listed unattached, recycle_eq]
    have due := subset_due_returnUnits (s.unlist g.carrier (s.handleOf i)) g.carrier g.units
    have mem := mem_due_returnUnits (s.unlist g.carrier (s.handleOf i)) g.carrier g.units
    rw [returnUnits_eq] at due mem ⊢
    refine ⟨_, _, _, rfl, fun _ => rfl, fun c => ?_, due, fun _ => mem⟩
    rw [look_put, on]
    by_cases same : c = g.carrier
    · subst same
      rw [if_pos rfl, if_pos ⟨rfl, rfl⟩]
      rfl
    · rw [if_neg same, if_neg fun h => same h.2.symm]
      rfl

/-! ### A link event that frees grants no case waits for -/

/-- The entry's grant is the master's and its fate is to be freed. -/
def goes (s : State) (m : MasterId) (fate : Grant → GrantFate) (i : GrantIndex) : Bool :=
  (look s.table.entries i).grant.any fun g => decide (g.owner = m) && decide (fate g = .freed)

/-- The entry's grant goes, and with it a place on the list of the carrier. -/
def goesOff (s : State) (m : MasterId) (fate : Grant → GrantFate) (c : CarrierId) (i : GrantIndex) : Bool :=
  s.goes m fate i && (look s.table.entries i).grant.any fun g => g.phase.isListed && decide (g.carrier = c)

theorem goes_of_grant (holds : (look s.table.entries i).grant = some g) :
    s.goes m fate i = true ↔ g.owner = m ∧ fate g = .freed := by
  rw [goes, holds]
  simp

/-- A fate that frees only grants that no case waits for, and revokes none. -/
structure FreesPlainly (fate : Grant → GrantFate) : Prop where
  alone : ∀ g, fate g = .freed → g.phase.attached = none
  spares : ∀ g, fate g ≠ .revokedOrphan

/-- What a link event with such a fate leaves, once it has looked at the entries of a list. -/
structure FreedPlainly (m : MasterId) (fate : Grant → GrantFate) (l : List GrantIndex) (s t : State) : Prop where
  whole : t = { s with
    table := t.table
    pool := { s.pool with carriers := t.pool.carriers }
    engine := t.engine }
  entries : ∀ i, look t.table.entries i =
    if i ∈ l ∧ s.goes m fate i = true then ⟨(look s.table.entries i).gen + 1, none⟩ else look s.table.entries i
  freeQueue : t.table.freeQueue = s.table.freeQueue ++ l.filter (s.goes m fate)
  tombstones : (∀ g, fate g = .freed → g.phase.isListed = true) → t.table.tombstones = s.table.tombstones
  occupancy : ∀ c, (t.carrier c).occupancy =
    (s.carrier c).occupancy.diff ((l.filter (s.goesOff m fate c)).map s.handleOf)
  due : s.engine.due ⊆ t.engine.due
  returned : ∀ i ∈ l, ∀ g, (look s.table.entries i).grant = some g → s.goes m fate i = true →
    g.phase.isListed = true → g.units = 0 ∨ g.carrier ∈ t.engine.due

theorem meetFate_of_not_goes (plain : FreesPlainly fate) (stays : ¬s.goes m fate i = true) :
    meetFate m fate s i = s := by
  cases holds : (look s.table.entries i).grant with
  | none => exact meetFate_of_free holds
  | some g =>
    by_cases own : g.owner = m
    · refine meetFate_of_kept holds ?_
      cases f : fate g with
      | kept => rfl
      | freed => exact absurd ((goes_of_grant holds).mpr ⟨own, f⟩) stays
      | revokedOrphan => exact absurd f (plain.spares g)
    · exact meetFate_of_other holds own

theorem freedPlainly_one (plain : FreesPlainly fate) (s : State) (i : GrantIndex) :
    FreedPlainly m fate [i] s (meetFate m fate s i) := by
  by_cases gone : s.goes m fate i = true
  case neg =>
    have off (c : CarrierId) : s.goesOff m fate c i = false := by
      rw [goesOff, Bool.not_eq_true _ |>.mp gone, Bool.false_and]
    rw [meetFate_of_not_goes plain gone]
    refine ⟨rfl, fun j => ?_, by simp [gone], fun _ => rfl, fun c => by simp [off], List.Subset.refl _,
      fun j mem g _ goes => ?_⟩
    · split_ifs with h
      · rw [List.mem_singleton.mp h.1] at h
        exact absurd h.2 gone
      · rfl
    · rw [List.mem_singleton.mp mem] at goes
      exact absurd goes gone
  obtain ⟨g, holds, fated⟩ : ∃ g, (look s.table.entries i).grant = some g ∧
      (decide (g.owner = m) && decide (fate g = .freed)) = true := by
    simpa [goes, Option.any_eq_true] using gone
  obtain ⟨own, freed⟩ := (goes_of_grant holds).mp gone
  have alone := plain.alone g freed
  obtain ⟨tombstones, carriers, engine, left, stones, lists, due, returned⟩ := s.freeGrant_unattached holds alone
  have met : meetFate m fate s i = s.freeGrant (s.handleOf i) := by
    rw [meetFate_of_freed holds own freed, alone]
    rfl
  rw [met, left]
  refine ⟨rfl, fun j => ?_, by simp [gone], fun listed => stones (listed g freed), fun c => ?_, due,
    fun j mem g' holds' _ => ?_⟩
  · rw [look_put]
    by_cases same : j = i
    · subst same
      rw [if_pos rfl, if_pos ⟨List.mem_singleton_self j, gone⟩]
    · rw [if_neg same, if_neg fun h => same (List.mem_singleton.mp h.1)]
  · refine (lists c).trans ?_
    have off : s.goesOff m fate c i = true ↔ g.phase.isListed = true ∧ g.carrier = c := by
      rw [goesOff, gone, holds]
      simp
    by_cases leaves : g.phase.isListed = true ∧ g.carrier = c
    · rw [if_pos leaves]
      simp [off.mpr leaves]
    · rw [if_neg leaves]
      simp [mt off.mp leaves]
  · rw [List.mem_singleton.mp mem, holds] at holds'
    cases holds'
    exact returned

/-- R59, R58: the grants that go leave their entries, in index order, to the free queue. -/
theorem freedPlainly_all (plain : FreesPlainly fate) (l : List GrantIndex) (once : l.Nodup) (s : State) :
    FreedPlainly m fate l s (l.foldl (meetFate m fate) s) := by
  induction l generalizing s with
  | nil => exact ⟨rfl, fun i => by simp, by simp, fun _ => rfl, fun c => by simp, List.Subset.refl _, fun i mem => by cases mem⟩
  | cons i rest ih =>
    rw [List.nodup_cons] at once
    obtain ⟨fresh, once⟩ := once
    have first := freedPlainly_one (m := m) plain s i
    have later := ih once (meetFate m fate s i)
    rw [List.foldl_cons]
    generalize meetFate m fate s i = t at first later
    generalize rest.foldl (meetFate m fate) t = u at later
    have same (j : GrantIndex) (other : j ≠ i) : look t.table.entries j = look s.table.entries j := by
      rw [first.entries, if_neg fun h => other (List.mem_singleton.mp h.1)]
    have different : ∀ j ∈ rest, j ≠ i := fun j mem e => fresh (e ▸ mem)
    have goes_same (j : GrantIndex) (other : j ≠ i) : t.goes m fate j = s.goes m fate j := by
      rw [goes, goes, same j other]
    have off_same (c : CarrierId) (j : GrantIndex) (other : j ≠ i) : t.goesOff m fate c j = s.goesOff m fate c j := by
      rw [goesOff, goesOff, goes_same j other, same j other]
    have handle_same (j : GrantIndex) (other : j ≠ i) : t.handleOf j = s.handleOf j := by
      rw [handleOf, handleOf, same j other]
    refine ⟨?_, fun j => ?_, ?_, fun listed => (later.tombstones listed).trans (first.tombstones listed), fun c => ?_,
      List.Subset.trans first.due later.due, fun j mem g holds gone listed => ?_⟩
    · rw [later.whole, first.whole]
    · rw [later.entries, first.entries]
      by_cases here : j = i
      · subst here
        simp [fresh]
      · rw [goes_same j here]
        simp [here]
    · rw [later.freeQueue, first.freeQueue, List.append_assoc,
        List.filter_congr fun j mem => goes_same j (different j mem), ← List.filter_append]
      rfl
    · rw [later.occupancy, first.occupancy, ← List.diff_append,
        List.filter_congr fun j mem => off_same c j (different j mem),
        List.map_congr_left fun j mem => handle_same j (different j (List.mem_of_mem_filter mem)), ← List.map_append,
        ← List.filter_append]
      rfl
    · rcases List.mem_cons.mp mem with rfl | mem
      · exact (first.returned j (List.mem_singleton_self j) g holds gone listed).imp_right fun h => later.due h
      · refine later.returned j mem g ?_ ?_ listed
        · rw [same j (different j mem), holds]
        · rw [goes_same j (different j mem), gone]

theorem freedPlainly_linkClaim (plain : FreesPlainly fate) (s : State) (m : MasterId) :
    FreedPlainly m fate (s.entriesOf m) s (s.linkClaim m fate) :=
  freedPlainly_all plain _ ((allIndexes_eq ▸ List.nodup_finRange 1024).filter _) s

end State

end Sys2Proof.Machine
end

section
/-! What follows a link event that frees grants plainly: what it leaves, by the state before the master's pending work has
ended; the faults of a frame and the suspension of a link (R144, R145, R151, R155). -/

namespace Sys2Proof.Machine

namespace State

variable {s : State} {m : MasterId} {fate : Grant → GrantFate} {i : GrantIndex} {g : Grant}

/-! ### The claim of a link event, written out -/

theorem mem_entriesOf : i ∈ s.entriesOf m ↔ ∃ g, (look s.table.entries i).grant = some g ∧ g.owner = m := by
  rw [entriesOf, allIndexes_eq, List.mem_filter]
  cases (look s.table.entries i).grant <;> simp

theorem filter_entriesOf {p : GrantIndex → Bool} (mine : ∀ i, p i = true → i ∈ s.entriesOf m) :
    (s.entriesOf m).filter p = (List.finRange 1024).filter p := by
  conv_lhs => rw [entriesOf, allIndexes_eq, List.filter_filter]
  refine List.filter_congr fun i _ => ?_
  cases gone : p i with
  | false => rfl
  | true =>
    obtain ⟨g, holds, own⟩ := mem_entriesOf.mp (mine i gone)
    rw [holds]
    simp [own]

theorem goes_iff : s.goes m fate i = true ↔
    ∃ g, (look s.table.entries i).grant = some g ∧ g.owner = m ∧ fate g = .freed := by
  rw [goes, Option.any_eq_true]
  simp

theorem goesOff_iff {c : CarrierId} : s.goesOff m fate c i = true ↔ s.goes m fate i = true ∧
    ∃ g, (look s.table.entries i).grant = some g ∧ g.phase.isListed = true ∧ g.carrier = c := by
  rw [goesOff, Bool.and_eq_true, Option.any_eq_true]
  simp

theorem mem_entriesOf_of_goes (gone : s.goes m fate i = true) : i ∈ s.entriesOf m := by
  obtain ⟨g, holds, own, _⟩ := goes_iff.mp gone
  exact mem_entriesOf.mpr ⟨g, holds, own⟩

theorem handleOf_injective (s : State) : Function.Injective s.handleOf := fun _ _ same => congrArg Handle.index same

theorem count_handleOf (s : State) (p : GrantIndex → Bool) (i : GrantIndex) :
    (((List.finRange 1024).filter p).map s.handleOf).count (s.handleOf i) = if p i = true then 1 else 0 := by
  rw [List.count_map_of_injective _ _ s.handleOf_injective]
  split_ifs with mem
  · rw [List.count_filter mem]
    exact List.count_eq_one_of_mem (List.nodup_finRange 1024) (List.mem_finRange i)
  · exact List.count_eq_zero.mpr fun h => mem (List.mem_filter.mp h).2

/-! ### A plain link event, by the state before the pending work has ended -/

/-- What the end of the pending work and a fate that frees grants plainly leave. -/
structure EndsPlainly (m : MasterId) (fate : Grant → GrantFate) (s u : State) : Prop where
  ports : u.ports = s.ports
  entries : ∀ i, look u.table.entries i =
    if s.goes m fate i = true then ⟨(look s.table.entries i).gen + 1, none⟩ else look (s.dropPending m).table.entries i
  freeQueue : u.table.freeQueue = s.table.freeQueue ++ (List.finRange 1024).filter (s.goes m fate)
  tombstones : (∀ g, fate g = .freed → g.phase.isListed = true) → u.table.tombstones = s.table.tombstones
  occupancy : ∀ c, (u.carrier c).occupancy =
    (s.carrier c).occupancy.diff (((List.finRange 1024).filter (s.goesOff m fate c)).map s.handleOf)
  returned : ∀ i g, (look s.table.entries i).grant = some g → s.goes m fate i = true → g.phase.isListed = true →
    g.units = 0 ∨ g.carrier ∈ u.engine.due
  pending : u.waiting = (s.dropPending m).waiting ∧ u.recallUnit = (s.dropPending m).recallUnit

theorem gen_dropPending (s : State) (m : MasterId) (i : GrantIndex) :
    (look (s.dropPending m).table.entries i).gen = (look s.table.entries i).gen := by
  rcases s.entry_dropPending m i with same | ⟨g, cause, d, j, -, -, -, -, lost⟩
  · rw [same]
  · rw [lost]

theorem handleOf_dropPending (s : State) (m : MasterId) : (s.dropPending m).handleOf = s.handleOf :=
  funext fun i => by rw [handleOf, handleOf, gen_dropPending]

/-- An entry whose grant is to go is not one that the end of the pending work detaches. -/
theorem entry_dropPending_of_goes (unmoved : ∀ g, fate g = .freed → ∀ cause d j, g.phase ≠ .recalled cause d j)
    (gone : s.goes m fate i = true ∨ (s.dropPending m).goes m fate i = true) :
    look (s.dropPending m).table.entries i = look s.table.entries i := by
  rcases s.entry_dropPending m i with same | ⟨g, cause, d, j, holds, phase, -, -, lost⟩
  · exact same
  · exfalso
    rcases gone with gone | gone
    · obtain ⟨-, freed⟩ := (goes_of_grant holds).mp gone
      exact unmoved g freed _ _ _ phase
    · obtain ⟨-, freed⟩ := (goes_of_grant (by rw [lost])).mp gone
      exact unmoved _ freed _ _ _ rfl

theorem goes_dropPending (unmoved : ∀ g, fate g = .freed → ∀ cause d j, g.phase ≠ .recalled cause d j) :
    (s.dropPending m).goes m fate = s.goes m fate := by
  refine funext fun i => Bool.eq_iff_iff.mpr ⟨fun gone => ?_, fun gone => ?_⟩
  · rwa [goes, entry_dropPending_of_goes unmoved (.inr gone)] at gone
  · rwa [goes, entry_dropPending_of_goes unmoved (.inl gone)]

theorem goesOff_dropPending (unmoved : ∀ g, fate g = .freed → ∀ cause d j, g.phase ≠ .recalled cause d j)
    (c : CarrierId) : (s.dropPending m).goesOff m fate c = s.goesOff m fate c := by
  funext i
  rw [goesOff, goesOff, goes_dropPending unmoved]
  cases gone : s.goes m fate i with
  | false => rfl
  | true => rw [entry_dropPending_of_goes unmoved (.inl gone)]

theorem endsPlainly (plain : FreesPlainly fate)
    (unmoved : ∀ g, fate g = .freed → ∀ cause d j, g.phase ≠ .recalled cause d j) (s : State) (m : MasterId) :
    EndsPlainly m fate s ((s.dropPending m).linkClaim m fate) := by
  obtain ⟨whole, entries, freeQueue, tombstones, occupancy, due, returned⟩ :=
    freedPlainly_linkClaim plain (s.dropPending m) m
  have dropped := dropPending_eq s m
  have same := goes_dropPending (s := s) (m := m) unmoved
  have unchanged (i : GrantIndex) := entry_dropPending_of_goes (s := s) (m := m) (i := i) unmoved
  have mine (i : GrantIndex) (gone : s.goes m fate i = true) : i ∈ (s.dropPending m).entriesOf m :=
    mem_entriesOf_of_goes (fate := fate) (by rw [same, gone])
  have handles := handleOf_dropPending s m
  have off := goesOff_dropPending (s := s) (m := m) unmoved
  rw [filter_entriesOf fun i gone => mine i (by rw [← same]; exact gone)] at freeQueue
  have listed (c : CarrierId) : ((s.dropPending m).entriesOf m).filter ((s.dropPending m).goesOff m fate c) =
      (List.finRange 1024).filter ((s.dropPending m).goesOff m fate c) :=
    filter_entriesOf fun i gone => mine i (by rw [← same]; exact (goesOff_iff.mp gone).1)
  generalize (s.dropPending m).linkClaim m fate = u at *
  refine ⟨?_, fun i => ?_, ?_, fun listed => (tombstones listed).trans ?_, fun c => ?_, fun i g holds gone listed => ?_,
    ?_, ?_⟩
  · rw [whole, dropped]
  · rw [entries i, same]
    by_cases gone : s.goes m fate i = true
    · rw [if_pos ⟨mine i gone, gone⟩, if_pos gone, unchanged i (.inl gone)]
    · rw [if_neg fun h => gone h.2, if_neg gone]
  · rw [freeQueue, same, dropped]
  · rw [dropped]
  · rw [occupancy c, listed, off, handles, dropped]
    rfl
  · exact returned i (mine i gone) g (by rw [unchanged i (.inl gone), holds]) (by rw [same, gone]) listed
  · rw [whole]
  · rw [whole]

/-- R13, R58: the units of a grant that goes, no tombstone, are back in the pool. -/
theorem EndsPlainly.unitsLeft {u : State} (e : EndsPlainly m fate s u) (plain : FreesPlainly fate)
    (holds : (look s.table.entries i).grant = some g) (gone : s.goes m fate i = true) : s.UnitsLeft u i g := by
  obtain ⟨-, freed⟩ := (goes_of_grant holds).mp gone
  have alone := plain.alone g freed
  have off (listed : g.phase.isListed = true) :
      (u.carrier g.carrier).occupancy.count (s.handleOf i) =
        (s.carrier g.carrier).occupancy.count (s.handleOf i) - 1 := by
    rw [e.occupancy, List.count_diff, count_handleOf, if_pos (goesOff_iff.mpr ⟨gone, g, holds, listed, rfl⟩)]
  unfold UnitsLeft
  cases phase : g.phase with
  | held d => exact ⟨off (by rw [phase]; rfl), e.returned i g holds gone (by rw [phase]; rfl)⟩
  | active => exact ⟨off (by rw [phase]; rfl), e.returned i g holds gone (by rw [phase]; rfl)⟩
  | recalled cause d j =>
    cases j with
    | none => exact ⟨off (by rw [phase]; rfl), e.returned i g holds gone (by rw [phase]; rfl)⟩
    | some j =>
      rw [phase] at alone
      cases alone
  | revoked cause => trivial

end State

/-! ### The fates of a grant (R59) -/

theorem fateAtSuspension_eq_freed {g : Grant} : fateAtSuspension g = .freed ↔ ∃ d, g.phase = .held d := by
  unfold fateAtSuspension
  split <;> simp_all

theorem freesPlainly_fateAtSuspension : State.FreesPlainly fateAtSuspension := by
  refine ⟨fun g freed => ?_, fun g => ?_⟩
  · obtain ⟨d, phase⟩ := fateAtSuspension_eq_freed.mp freed
    rw [phase]
    rfl
  · unfold fateAtSuspension
    split <;> simp

theorem unmoved_fateAtSuspension (g : Grant) (freed : fateAtSuspension g = .freed) (cause d j) :
    g.phase ≠ .recalled cause d j := by
  obtain ⟨d, phase⟩ := fateAtSuspension_eq_freed.mp freed
  rw [phase]
  simp

namespace State

variable {s : State} {m : MasterId}

/-! ### A fault of a frame -/

/-- R144, R155: what a counted fault does, written out. -/
theorem countFrameFault_eq (l : s.Listens m) :
    s.countFrameFault m =
      let flags := { (s.port m).flags with frameFault := true }
      let counted := s.modPort m fun p => { p with frameFaults := p.frameFaults + 1, flags := flags }
      let told := if (s.port m).flags.frameFault = true then counted else counted.offer m (.fault flags)
      if (s.port m).frameFaults + 1 < 8 then told else told.suspend m .frameFaults := by
  have flagged : (s.modPort m fun p => { p with frameFaults := p.frameFaults + 1 }).setFault m .frameFault =
      (if (s.port m).flags.frameFault = true then
        s.modPort m fun p => { p with
          frameFaults := p.frameFaults + 1, flags := { (s.port m).flags with frameFault := true } }
      else (s.modPort m fun p => { p with
          frameFaults := p.frameFaults + 1, flags := { (s.port m).flags with frameFault := true } }).offer m
        (.fault { (s.port m).flags with frameFault := true })) := by
    have flags : ((s.modPort m fun p => { p with frameFaults := p.frameFaults + 1 }).port m).flags =
        (s.port m).flags := by
      rw [port_modPort_same]
    cases raised : (s.port m).flags.frameFault with
    | true =>
      rw [if_pos rfl, setFault_of_set (by rw [flags]; exact raised)]
      refine modPort_congr ?_
      have same : (s.port m).flags = { (s.port m).flags with frameFault := true } := by
        rw [← raised]
      rw [← same]
    | false =>
      rw [if_neg (by simp), setFault_of_clear (by rw [flags]; exact raised), flags, modPort_modPort]
      rfl
  rw [countFrameFault_of_listens l, flagged]
  by_cases few : (s.port m).frameFaults + 1 < 8
  · simp only [few, if_true, Nat.not_le.mpr few, if_false]
  · simp only [few, if_false, Nat.not_lt.mp few, if_true]

/-- R82, R104: how the pending work ends, written out. -/
theorem dropPending_def (s : State) (m : MasterId) :
    s.dropPending m = (s.recallUnit.age.filter fun k =>
      match s.caseAt k with | some x => decide (x.req.owner = m) | none => false).foldl State.abandon
        { s with waiting :=
          { eList := s.waiting.eList.filter fun w => w.req.owner ≠ m
            p1Lists := put s.waiting.p1Lists m [], p2Lists := put s.waiting.p2Lists m [] } } := rfl

/-- R59: one turn of a link event, by the place that the grant's units go to. -/
theorem meetFate_def (m : MasterId) (fate : Grant → GrantFate) (t : State) (i : GrantIndex) :
    meetFate m fate t i =
      let h : Handle := ⟨(look t.table.entries i).gen, i⟩
      match (look t.table.entries i).grant with
      | none => t
      | some g =>
        let attached := match g.phase with | .recalled _ _ k => k | _ => none
        let settled (t : State) := match attached with | some k => t.trySettle k | none => t
        let dest : UnitsTo := match attached with | some k => .earmark k | none => .pool
        if g.owner ≠ m then t
        else match fate g with
          | .kept => t
          | .freed => settled (t.freeGrant h)
          | .revokedOrphan => settled (t.revoke h .orphan dest) := by
  cases holds : (look t.table.entries i).grant with
  | none => rw [meetFate_of_free holds]
  | some g =>
    by_cases own : g.owner = m
    · cases f : fate g with
      | kept =>
        rw [meetFate_of_kept holds f]
        simp only [own, not_true, if_false, f, ne_eq]
      | freed =>
        rw [meetFate_of_freed holds own f]
        simp only [own, not_true, if_false, f, ne_eq]
        rcases phase : g.phase with _ | _ | ⟨_, _, _ | k⟩ | _ <;> rfl
      | revokedOrphan =>
        rw [meetFate_of_revoked holds own f]
        simp only [own, not_true, if_false, f, ne_eq]
        rcases phase : g.phase with _ | _ | ⟨_, _, _ | k⟩ | _ <;> rfl
    · rw [meetFate_of_other holds own]
      simp only [own, not_false_eq_true, if_true, ne_eq]

end State

end Sys2Proof.Machine
end

section
/-! The faults of a frame and the suspension of a link (R144, R145, R151, R155), and the table of R59. -/

namespace Sys2Proof.Machine

/-- The table of R59, a row for each phase of a grant. -/
theorem fates_of_phase (g : Grant) :
    let fates := (fateAtSuspension g, fateAtKeep g, fateAtForget g, fateAtStage1 g, fateAtStage2 g)
    ((∃ d, g.phase = .held d) → fates =
      (.freed, .freed, .freed, .revokedOrphan, if g.level = .e then .revokedOrphan else .kept)) ∧
    (g.phase = .active → fates =
      if g.level = .e then (.kept, .kept, .freed, .kept, .revokedOrphan)
      else (.kept, .kept, .freed, .revokedOrphan, .kept)) ∧
    ((∃ cause d k, g.phase = .recalled cause d k) → fates = (.kept, .kept, .freed, .revokedOrphan, .kept)) ∧
    ((∃ cause, g.phase = .revoked cause) → fates = (.kept, .freed, .freed, .kept, .kept)) := by
  simp only [fateAtSuspension, fateAtKeep, fateAtForget, fateAtStage1, fateAtStage2]
  refine ⟨fun ⟨d, phase⟩ => ?_, fun phase => ?_, fun ⟨cause, d, k, phase⟩ => ?_, fun ⟨cause, phase⟩ => ?_⟩
  · simp only [phase]
  · simp only [phase]
    split_ifs <;> rfl
  · simp only [phase]
  · simp only [phase]

namespace State

variable {s : State} {m : MasterId}

/-- R59: a link event takes the master's grants one by one, in index order. -/
theorem linkClaim_def (s : State) (m : MasterId) (fate : Grant → GrantFate) :
    s.linkClaim m fate = ((List.finRange 1024).filter fun i =>
      match (look s.table.entries i).grant with | some g => decide (g.owner = m) | none => false).foldl
        (meetFate m fate) s := by
  rw [linkClaim, entriesOf, allIndexes_eq] <;> rfl

/-- The entries whose grant a suspension frees. -/
def isHeldBy (s : State) (m : MasterId) (i : GrantIndex) : Bool := s.goes m fateAtSuspension i

theorem isHeldBy_eq (s : State) (m : MasterId) (i : GrantIndex) :
    s.isHeldBy m i = (match (look s.table.entries i).grant with
      | some g => decide (g.owner = m) && match g.phase with | .held _ => true | _ => false
      | none => false) := by
  rw [isHeldBy, goes]
  cases (look s.table.entries i).grant with
  | none => rfl
  | some g =>
    have row : fateAtSuspension g = (match g.phase with | .held _ => .freed | _ => .kept) := by
      cases phase : g.phase <;> simp [fateAtSuspension, phase]
    rw [Option.any_some, row]
    cases phase : g.phase <;> simp [phase]

theorem isListed_of_suspended {g : Grant} (freed : fateAtSuspension g = .freed) : g.phase.isListed = true := by
  obtain ⟨d, phase⟩ := fateAtSuspension_eq_freed.mp freed
  rw [phase]
  rfl

/-- The grants that a suspension takes off the list of a carrier are, of those that go, the ones on that carrier. -/
theorem filter_goesOff_suspension (s : State) (m : MasterId) (c : CarrierId) (l : List GrantIndex) :
    l.filter (s.goesOff m fateAtSuspension c) = (l.filter (s.goes m fateAtSuspension)).filter fun i =>
      match (look s.table.entries i).grant with | some g => decide (g.carrier = c) | none => false := by
  rw [List.filter_filter]
  refine List.filter_congr fun i _ => ?_
  rw [goesOff]
  cases gone : s.goes m fateAtSuspension i with
  | false => rw [Bool.false_and, Bool.and_false]
  | true =>
    obtain ⟨g, holds, -, freed⟩ := goes_iff.mp gone
    rw [holds, Option.any_some, isListed_of_suspended freed, Bool.true_and, Bool.true_and, Bool.and_true]

end State

/-- Settles O46. -/
theorem faultsAndSuspension : Obligations.FaultsAndSuspension := by
  intro m s
  refine ⟨?faults, ?overrun, ?none, ?claim, s.dropPending_def m, ?turns, fates_of_phase⟩
  case faults =>
    intro c arrives
    have noted : exec c s = .next (s.noteFault m) := by
      rcases arrives with rfl | rfl <;> rfl
    refine ⟨fun deaf => by rw [noted, State.noteFault_of_not deaf], fun l waits => ?_, fun l => ?_⟩
    · rw [noted, State.noteFault_of_listens l, if_neg waits]
      rfl
    · intro flags counted told served
      have count : s.countFrameFault m = served := State.countFrameFault_eq l
      exact ⟨count, fun e => by rw [noted, State.noteFault_of_listens l, if_pos e, count]⟩
  case overrun =>
    intro overrun
    change Host.Outcome.next (if (s.port m).overrun = true then _ else _) = _
    rw [if_pos overrun]
  case none =>
    intro fine
    change Host.Outcome.next (if (s.port m).overrun = true then _ else _) = _
    rw [if_neg (by rw [fine]; exact Bool.false_ne_true)]
  case turns =>
    intro fate
    rw [State.linkClaim_def]
    congr 1
    funext t i
    exact State.meetFate_def m fate t i
  case claim =>
    intro reason age lost u handle held freed freedOn
    have ends : lost.EndsPlainly m fateAtSuspension u := State.endsPlainly freesPlainly_fateAtSuspension unmoved_fateAtSuspension lost m
    have goes : lost.goes m fateAtSuspension = held := funext fun i => s.isHeldBy_eq m i
    have fates (i : GrantIndex) (g : Grant) (holds : (look s.table.entries i).grant = some g) :
        held i = true ↔ g.owner = m ∧ ∃ d, g.phase = .held d := by
      rw [← goes, State.goes_of_grant (s := lost) holds, fateAtSuspension_eq_freed]
    have stays (i : GrantIndex) (kept : held i = false) :
        look u.table.entries i = look (lost.dropPending m).table.entries i := by
      rw [ends.entries, goes, kept, if_neg Bool.false_ne_true]
    have off (c : CarrierId) : (List.finRange 1024).filter (lost.goesOff m fateAtSuspension c) = freedOn c := by
      rw [State.filter_goesOff_suspension, goes]
      rfl
    refine ⟨rfl, ?port, fun j other => ?others, fun tag => ?pending, fun i g holds own d phase => ?noHeld,
      fun i gone => ?freed, fun i g holds gone => ?left, ?queue,
      ends.tombstones fun g gone => State.isListed_of_suspended gone, fun c => ?lists,
      fun i kept calm => ?calm, fun i g cause d k holds phase => ?recalled⟩
    case port =>
      rw [State.port, ends.ports]
      exact State.port_modPort_same _ _ _
    case others =>
      rw [State.port, ends.ports]
      exact State.port_modPort_ne _ other _
    case pending =>
      have none := lost.nothingPending_dropPending age m tag
      unfold State.WaitsUnder State.CaseUnder State.caseAt at none ⊢
      rw [ends.pending.1, ends.pending.2]
      exact none
    case noHeld =>
      cases gone : held i with
      | true =>
        rw [ends.entries, goes, if_pos gone] at holds
        cases holds
      | false =>
        rw [stays i gone] at holds
        rcases lost.entry_dropPending m i with same | ⟨g', cause, d', j, -, -, -, -, detached⟩
        · rw [same] at holds
          exact Bool.false_ne_true (gone.symm.trans ((fates i g holds).mpr ⟨own, d, phase⟩))
        · rw [detached] at holds
          cases holds
          cases phase
    case freed =>
      rw [ends.entries, goes, if_pos gone]
      rfl
    case left => exact ends.unitsLeft freesPlainly_fateAtSuspension holds (by rw [goes]; exact gone)
    case queue =>
      rw [ends.freeQueue, goes]
      rfl
    case lists =>
      rw [ends.occupancy, off]
      rfl
    case calm =>
      rw [stays i kept]
      rcases lost.entry_dropPending m i with same | ⟨g, cause, d, j, holds, phase, -⟩
      · exact same
      · exact absurd phase (calm g cause d _ holds)
    case recalled =>
      have kept : held i = false := Bool.eq_false_iff.mpr fun gone => by
        obtain ⟨-, d', held⟩ := (fates i g holds).mp gone
        rw [phase] at held
        cases held
      rw [stays i kept]
      rcases lost.entry_dropPending m i with same | ⟨g', cause', d', j, holds', phase', mine, -, detached⟩
      · exact .inl same
      · cases holds.symm.trans holds'
        cases phase.symm.trans phase'
        exact .inr ⟨j, rfl, mine, detached⟩

end Sys2Proof.Machine
end

section
/-! How a claim that takes grants and settles cases proceeds: what it does to the ports, the cases, the lists of waiting
entries and the grants, whatever the grants it takes (R59). -/

namespace Sys2Proof.Machine

/-- What may become of a grant while a claim takes grants: it may be revoked, or a RECALLED one lose its case. -/
structure Grant.Follows (g g₀ : Grant) : Prop where
  owner : g.owner = g₀.owner
  level : g.level = g₀.level
  phase : g.phase = g₀.phase ∨ (∃ cause, g.phase = .revoked cause) ∨
    ((∃ cause d j, g.phase = .recalled cause d j) ∧ ∃ cause d j, g₀.phase = .recalled cause d j)

theorem Grant.Follows.rfl {g : Grant} : g.Follows g := ⟨.refl _, .refl _, .inl (.refl _)⟩

theorem Grant.Follows.trans {a b c : Grant} (h : a.Follows b) (k : b.Follows c) : a.Follows c := by
  refine ⟨h.owner.trans k.owner, h.level.trans k.level, ?_⟩
  rcases h.phase with same | revoked | ⟨recalled, was⟩
  · rw [same]
    exact k.phase
  · exact .inr (.inl revoked)
  · rcases k.phase with same | ⟨cause, revoked⟩ | ⟨-, before⟩
    · rw [same] at was
      exact .inr (.inr ⟨recalled, was⟩)
    · obtain ⟨_, _, _, phase⟩ := was
      rw [revoked] at phase
      cases phase
    · exact .inr (.inr ⟨recalled, before⟩)

/-- What a claim that takes grants and settles cases does: the ports get frames and no more, cases end or get earmarks and
none opens, who waits has waited or had a case, and every grant follows one that was there or was created for a case. -/
structure Proceeds (s t : State) : Prop where
  ports : ∀ j, (t.port j).unqueued = (s.port j).unqueued
  cases : ∀ k y, t.caseAt k = some y → ∃ x, s.caseAt k = some x ∧ y.req = x.req ∧ x.earmark ≤ y.earmark
  waits : ∀ j tag, t.WaitsUnder j tag → s.WaitsUnder j tag ∨ ∃ k, s.CaseUnder j tag k
  due : s.engine.due ⊆ t.engine.due
  grants : ∀ i g, (look t.table.entries i).grant = some g → (∃ tag k, s.CaseUnder g.owner tag k) ∨
    ∃ g₀, (look s.table.entries i).grant = some g₀ ∧ g.Follows g₀

namespace Proceeds

variable {s t u : State}

theorem refl : Proceeds s s :=
  ⟨fun _ => rfl, fun _ y h => ⟨y, h, rfl, le_rfl⟩, fun _ _ => .inl, List.Subset.refl _, fun _ g h => .inr ⟨g, h, .rfl⟩⟩

theorem caseUnder (h : Proceeds s t) {m : MasterId} {tag : Half} {k : CaseId} (mine : t.CaseUnder m tag k) :
    s.CaseUnder m tag k := by
  obtain ⟨y, collecting, own, tagged⟩ := mine
  obtain ⟨x, was, req, -⟩ := h.cases k y collecting
  exact ⟨x, was, req ▸ own, req ▸ tagged⟩

/-- No case opens. -/
theorem caseAt_none (h : Proceeds s t) {k : CaseId} (free : s.caseAt k = none) : t.caseAt k = none := by
  cases collecting : t.caseAt k with
  | none => rfl
  | some y =>
    obtain ⟨x, was, -⟩ := h.cases k y collecting
    rw [free] at was
    cases was

theorem trans (h : Proceeds s t) (k : Proceeds t u) : Proceeds s u := by
  refine ⟨fun j => (k.ports j).trans (h.ports j), fun j z open_ => ?_, fun j tag waits => ?_,
    List.Subset.trans h.due k.due, fun i g holds => ?_⟩
  · obtain ⟨y, was, req, more⟩ := k.cases j z open_
    obtain ⟨x, before, req', more'⟩ := h.cases j y was
    exact ⟨x, before, req.trans req', more'.trans more⟩
  · rcases k.waits j tag waits with waited | ⟨c, mine⟩
    · exact h.waits j tag waited
    · exact .inr ⟨c, h.caseUnder mine⟩
  · rcases k.grants i g holds with ⟨tag, c, mine⟩ | ⟨g₀, held, follows⟩
    · exact .inl ⟨tag, c, h.caseUnder mine⟩
    · rcases h.grants i g₀ held with ⟨tag, c, mine⟩ | ⟨g₁, had, follows'⟩
      · exact .inl ⟨tag, c, follows.owner ▸ mine⟩
      · exact .inr ⟨g₁, had, follows.trans follows'⟩

/-- A step that leaves the cases, the lists and the entries as they are. -/
theorem quiet (ports : ∀ j, (t.port j).unqueued = (s.port j).unqueued) (cases : t.recallUnit.cases = s.recallUnit.cases)
    (waiting : t.waiting = s.waiting) (due : s.engine.due ⊆ t.engine.due) (entries : t.table.entries = s.table.entries) :
    Proceeds s t := by
  have at_ (k : CaseId) : t.caseAt k = s.caseAt k := by
    rw [State.caseAt, cases]
    rfl
  refine ⟨ports, fun k y h => ⟨y, ?_, rfl, le_rfl⟩, fun j tag h => .inl ?_, due, fun i g h => .inr ⟨g, ?_, .rfl⟩⟩
  · rw [← at_, h]
  · unfold State.WaitsUnder at h ⊢
    rw [waiting] at h
    exact h
  · rw [← entries, h]

/-- A step on the cases alone, that opens none, keeps the requests and takes from no earmark. -/
theorem ofCases (cases : Vector (Option Case) 8)
    (more : ∀ k y, look cases k = some y → ∃ x, s.caseAt k = some x ∧ y.req = x.req ∧ x.earmark ≤ y.earmark) :
    Proceeds s { s with recallUnit := { s.recallUnit with cases := cases } } :=
  ⟨fun _ => rfl, more, fun _ _ => .inl, List.Subset.refl _, fun _ g h => .inr ⟨g, h, .rfl⟩⟩

theorem foldl {α : Type} {f : State → α → State} (step : ∀ t x, Proceeds t (f t x)) (l : List α) (s : State) :
    Proceeds s (l.foldl f s) := by
  induction l generalizing s with
  | nil => exact refl
  | cons x l ih => exact (step s x).trans (ih _)

theorem offer (s : State) (m : MasterId) (f : OutFrame) : Proceeds s (s.offer m f) :=
  quiet (fun j => State.unqueued_offer s m j f) (by rw [State.recallUnit_offer]) (State.waiting_offer s m f)
    (by rw [State.engine_offer]; exact List.Subset.refl _) (by rw [State.table_offer])

theorem modTombstones (s : State) (m : MasterId) (f : List Handle → List Handle) : Proceeds s (s.modTombstones m f) :=
  quiet (fun _ => rfl) rfl rfl (List.Subset.refl _) rfl

theorem returnUnits (s : State) (c : CarrierId) (u : Nat) : Proceeds s (s.returnUnits c u) := by
  have due := s.subset_due_returnUnits c u
  rw [State.returnUnits_eq] at due ⊢
  exact quiet (fun _ => rfl) rfl rfl due rfl

/-- Units that leave a carrier's list and the record of a victim. -/
theorem leave (s : State) (c : CarrierId) (h : Handle) (u : Nat) (dest : UnitsTo) (v : VictimState) (k : Option CaseId) :
    Proceeds s (((s.unlist c h).giveUnits c u dest).markAttached h v k) := by
  have unlisted : Proceeds s (s.unlist c h) := quiet (fun _ => rfl) rfl rfl (List.Subset.refl _) rfl
  refine unlisted.trans ?_
  generalize s.unlist c h = t
  have given : Proceeds t (t.giveUnits c u dest) := by
    cases dest with
    | pool => exact returnUnits t c u
    | nowhere => exact refl
    | earmark k =>
      refine ofCases _ fun j y at_ => ?_
      have moved : (t.modCase k fun x => { x with earmark := x.earmark + u }).caseAt j = some y := at_
      rw [State.caseAt_modCase] at moved
      split_ifs at moved
      · obtain ⟨x, was, rfl⟩ := Option.map_eq_some_iff.mp moved
        exact ⟨x, was, rfl, Nat.le_add_right _ _⟩
      · exact ⟨y, moved, rfl, le_rfl⟩
  refine given.trans ?_
  generalize t.giveUnits c u dest = t'
  cases k with
  | none => exact refl
  | some k =>
    refine ofCases _ fun j y at_ => ?_
    have moved : (t'.markVictim k h v).caseAt j = some y := at_
    rw [State.markVictim, State.caseAt_modCase] at moved
    split_ifs at moved
    · obtain ⟨x, was, rfl⟩ := Option.map_eq_some_iff.mp moved
      exact ⟨x, was, rfl, le_rfl⟩
    · exact ⟨y, moved, rfl, le_rfl⟩

theorem recycle (s : State) (i : GrantIndex) : Proceeds s (s.recycle i) := by
  rw [State.recycle_eq]
  refine ⟨fun _ => rfl, fun _ y h => ⟨y, h, rfl, le_rfl⟩, fun _ _ => .inl, List.Subset.refl _, fun j g holds => ?_⟩
  change Entry.grant (look (put _ _ _) _) = _ at holds
  rw [look_put] at holds
  split_ifs at holds
  exact .inr ⟨g, holds, .rfl⟩

theorem freeGrant (s : State) (h : Handle) : Proceeds s (s.freeGrant h) := by
  cases named : s.grantAt h with
  | none =>
    rw [State.freeGrant, named]
    exact refl
  | some g =>
    by_cases revoked : ∃ cause, g.phase = .revoked cause
    · obtain ⟨cause, phase⟩ := revoked
      rw [State.freeGrant_of_revoked named phase]
      exact (modTombstones _ _ _).trans (recycle _ _)
    · rw [State.freeGrant_of_listed named (not_exists.mp revoked)]
      exact (leave _ _ _ _ _ _ _).trans (recycle _ _)

theorem addTombstone (s : State) (m : MasterId) (h : Handle) : Proceeds s (s.addTombstone m h) := by
  unfold State.addTombstone
  split
  · exact modTombstones _ _ _
  · split_ifs
    · exact modTombstones _ _ _
    · exact ((modTombstones _ _ _).trans (freeGrant _ _)).trans (modTombstones _ _ _)

/-- A grant is written REVOKED. -/
theorem setRevoked {h : Handle} {g : Grant} (named : s.grantAt h = some g) (cause : RevokeCause) :
    Proceeds s (s.setGrant h { g with units := 0, phase := .revoked cause }) := by
  refine ⟨fun _ => rfl, fun _ y h => ⟨y, h, rfl, le_rfl⟩, fun _ _ => .inl, List.Subset.refl _, fun j g' holds => ?_⟩
  rw [State.table_setGrant] at holds
  change Entry.grant (look (put _ _ _) _) = _ at holds
  rw [look_put] at holds
  split_ifs at holds with here
  · cases holds
    exact .inr ⟨g, here ▸ (State.entry_of_grantAt named).1, rfl, rfl, .inr (.inl ⟨cause, rfl⟩)⟩
  · exact .inr ⟨g', holds, .rfl⟩

theorem countRevoked (s : State) (m : MasterId) : Proceeds s (s.countRevoked m) :=
  quiet (fun _ => rfl) rfl rfl (List.Subset.refl _) rfl

theorem takeAway {h : Handle} {g : Grant} (named : s.grantAt h = some g) (cause : RevokeCause) (dest : UnitsTo) :
    Proceeds s (s.takeAway h g cause dest) :=
  (setRevoked named cause).trans (leave _ _ _ _ _ _ _)

theorem revoke (s : State) (h : Handle) (cause : RevokeCause) (dest : UnitsTo) : Proceeds s (s.revoke h cause dest) := by
  cases named : s.grantAt h with
  | none =>
    rw [State.revoke, named]
    exact refl
  | some g =>
    rw [State.revoke_of_grantAt named]
    exact (((takeAway named cause dest).trans (addTombstone _ _ _)).trans (offer _ _ _)).trans (countRevoked _ _)

theorem countAdmitted (s : State) (m : MasterId) : Proceeds s (s.countAdmitted m) :=
  quiet (fun _ => rfl) rfl rfl (List.Subset.refl _) rfl

/-- An entry leaves the free queue and its handle joins a carrier's list. -/
theorem listed (s : State) (rest : List GrantIndex) (c : CarrierId) (h : Handle) :
    Proceeds s ((s.setFreeQueue rest).modCarrier c fun k => { k with occupancy := k.occupancy ++ [h] }) :=
  quiet (fun _ => rfl) rfl rfl (List.Subset.refl _) rfl

/-- A grant is created for a request that has a case. -/
theorem createGrant {r : Request} {k : CaseId} (mine : s.CaseUnder r.owner r.tag k) (c : CarrierId) :
    Proceeds s (s.createGrant r c) := by
  cases queue : s.table.freeQueue with
  | nil =>
    rw [State.createGrant, queue]
    exact refl
  | cons i rest =>
    rw [State.createGrant_of_cons queue]
    generalize (⟨(look s.table.entries i).gen, i⟩ : Handle) = h
    have written : Proceeds s (s.setGrant h ⟨r.owner, r.tag, r.code, r.level, c, r.units, s.startPhase r⟩) := by
      refine ⟨fun _ => rfl, fun _ y h => ⟨y, h, rfl, le_rfl⟩, fun _ _ => .inl, List.Subset.refl _, fun j g holds => ?_⟩
      rw [State.table_setGrant] at holds
      change Entry.grant (look (put _ _ _) _) = _ at holds
      rw [look_put] at holds
      split_ifs at holds
      · cases holds
        exact .inl ⟨r.tag, k, mine⟩
      · exact .inr ⟨g, holds, .rfl⟩
    exact ((written.trans (listed _ _ _ _)).trans (offer _ _ _)).trans (countAdmitted _ _)

/-- A case ends: its victims are detached and its record becomes FREE. -/
theorem endCase (s : State) (k : CaseId) (x : Case) : Proceeds s ((s.detachAll k x).freeCase k) := by
  obtain ⟨-, -, entries⟩ := Spares.table_detachAll s k x
  refine ⟨fun j => ?_, fun j y at_ => ⟨y, ?_, rfl, le_rfl⟩, fun j tag waits => .inl ?_, ?_, fun i g holds => .inr ?_⟩
  · rw [State.detachAll_eq_entries]
    rfl
  · rw [State.caseAt_freeCase, State.caseAt_detachAll] at at_
    split_ifs at at_
    exact at_
  · rw [State.detachAll_eq_entries] at waits
    exact waits
  · rw [State.detachAll_eq_entries]
    exact List.Subset.refl _
  · rcases entries i with same | ⟨g', cause, d, had, phase, lost⟩
    · exact ⟨g, by rw [← same]; exact holds, .rfl⟩
    · have is : (look (s.detachAll k x).table.entries i).grant = some g := holds
      rw [lost] at is
      cases is
      exact ⟨g', had, rfl, rfl, .inr (.inr ⟨⟨cause, d, none, rfl⟩, cause, d, some k, phase⟩)⟩

theorem refuse (s : State) (m : MasterId) (tag : Half) (o : AnswerCode) : Proceeds s (s.refuse m tag o) := by
  refine (offer s m _).trans (t := s.answer m tag o) ?_
  exact quiet (fun _ => rfl) rfl rfl (List.Subset.refl _) rfl

theorem mem_look_put_cons {v : Vector (List WaitEntry) 4} {o j : MasterId} {w w' : WaitEntry}
    (mem : w' ∈ look (put v o (w :: look v o)) j) : w' ∈ look v j ∨ j = o ∧ w' = w := by
  rw [look_put] at mem
  split_ifs at mem with here
  · rcases List.mem_cons.mp mem with same | mem
    · exact .inr ⟨here, same⟩
    · exact .inl (here ▸ mem)
  · exact .inl mem

/-- Who waits once an entry has joined a list waited before, or is the one that joined. -/
theorem waitsUnder_modList (t : State) (l : Level) (w : WaitEntry) {j : MasterId} {tag : Half}
    (waits : (t.modList l w.req.owner fun q => w :: q).WaitsUnder j tag) :
    t.WaitsUnder j tag ∨ j = w.req.owner ∧ tag = w.req.tag := by
  cases l with
  | e =>
    rcases waits with ⟨w', mem, own, tagged⟩ | waits
    · rcases List.mem_cons.mp mem with rfl | mem
      · exact .inr ⟨own.symm, tagged.symm⟩
      · exact .inl (.inl ⟨w', mem, own, tagged⟩)
    · exact .inl (.inr waits)
  | p1 =>
    rcases waits with waits | ⟨w', mem, tagged⟩ | waits
    · exact .inl (.inl waits)
    · rcases mem_look_put_cons mem with mem | ⟨here, rfl⟩
      · exact .inl (.inr (.inl ⟨w', mem, tagged⟩))
      · exact .inr ⟨here, tagged.symm⟩
    · exact .inl (.inr (.inr waits))
  | p2 =>
    rcases waits with waits | waits | ⟨w', mem, tagged⟩
    · exact .inl (.inl waits)
    · exact .inl (.inr (.inl waits))
    · rcases mem_look_put_cons mem with mem | ⟨here, rfl⟩
      · exact .inl (.inr (.inr ⟨w', mem, tagged⟩))
      · exact .inr ⟨here, tagged.symm⟩
  | p3 => exact .inl waits

/-- A request that had a case returns to its list. -/
theorem joinHead {r : Request} {k : CaseId} (before : Proceeds s t) (mine : s.CaseUnder r.owner r.tag k) :
    Proceeds s (t.joinHead r) := by
  have announced (t : State) : Proceeds t (t.announceWaiting r) := by
    refine (offer t r.owner (.queued r.tag .waiting)).trans ?_
    unfold State.announceWaiting State.reportQueued
    cases r.level with
    | e => exact quiet (fun _ => rfl) rfl rfl (List.Subset.refl _) rfl
    | p1 => exact refl
    | p2 => exact refl
    | p3 => exact refl
  refine Proceeds.trans (t := t.modList r.level r.owner fun l => t.waitEntry r :: l) ?_ (announced _)
  refine ⟨before.ports, before.cases, fun j tag waits => ?_, before.due, before.grants⟩
  rcases waitsUnder_modList t r.level (t.waitEntry r) waits with waits | ⟨rfl, rfl⟩
  · exact before.waits j tag waits
  · exact .inr ⟨k, mine⟩

theorem trySettle (s : State) (k : CaseId) : Proceeds s (s.trySettle k) := by
  cases collecting : s.caseAt k with
  | none =>
    rw [State.trySettle, collecting]
    exact refl
  | some x =>
    have mine : s.CaseUnder x.req.owner x.req.tag k := ⟨x, collecting, rfl, rfl⟩
    by_cases short : x.earmark < x.req.units
    · rw [State.trySettle_of_short collecting short]
      exact refl
    · by_cases room : s.tableHasRoom x.req.level = true
      · rw [State.trySettle_of_room collecting short room]
        exact ((createGrant mine x.target).trans (endCase _ k x)).trans (returnUnits _ _ _)
      · rw [State.trySettle_of_full collecting short room]
        have closed := (endCase s k x).trans (returnUnits _ x.target x.earmark)
        unfold State.closeWithoutGrant
        dsimp only
        split_ifs
        · exact closed.joinHead mine
        · exact closed.trans (refuse _ _ _ _)

theorem trySettleAttached (s : State) (k : Option CaseId) : Proceeds s (s.trySettleAttached k) := by
  cases k with
  | none => exact refl
  | some k => exact trySettle s k

theorem meetFate (m : MasterId) (fate : Grant → GrantFate) (s : State) (i : GrantIndex) :
    Proceeds s (State.meetFate m fate s i) := by
  cases holds : (look s.table.entries i).grant with
  | none =>
    rw [State.meetFate_of_free holds]
    exact refl
  | some g =>
    by_cases own : g.owner = m
    · cases f : fate g with
      | kept =>
        rw [State.meetFate_of_kept holds f]
        exact refl
      | freed =>
        rw [State.meetFate_of_freed holds own f]
        exact (freeGrant _ _).trans (trySettleAttached _ _)
      | revokedOrphan =>
        rw [State.meetFate_of_revoked holds own f]
        exact (revoke _ _ _ _).trans (trySettleAttached _ _)
    · rw [State.meetFate_of_other holds own]
      exact refl

theorem linkClaim (s : State) (m : MasterId) (fate : Grant → GrantFate) : Proceeds s (s.linkClaim m fate) :=
  foldl (meetFate m fate) _ s

end Proceeds

end Sys2Proof.Machine
end

section
/-! What a claim that takes grants leaves of an entry that it passes by, and of the places of its handle on the carriers'
lists (R59, R101, R102). -/

namespace Sys2Proof.Machine

namespace State

variable {s t : State} {m : MasterId} {i : GrantIndex} {h h' : Handle} {k : CaseId}

/-! ### What a case that may settle leaves -/

theorem joinHead_keeps (s : State) (r : Request) :
    (s.joinHead r).table = s.table ∧ (s.joinHead r).pool = s.pool ∧ (s.joinHead r).recallUnit = s.recallUnit := by
  unfold joinHead announceWaiting reportQueued modList
  cases r.level <;> simp

theorem refuse_keeps (s : State) (m : MasterId) (tag : Half) (o : AnswerCode) :
    (s.refuse m tag o).table = s.table ∧ (s.refuse m tag o).pool = s.pool ∧
      (s.refuse m tag o).recallUnit = s.recallUnit := by
  unfold refuse answer countRefused
  simp

/-- What holds before a case may settle, and is kept by each thing it may do then, holds afterwards (R95, R101, R102). -/
theorem trySettle_induct {P : State → Prop} (k : CaseId) (start : P s)
    (create : ∀ x, s.caseAt k = some x → P (s.createGrant x.req x.target))
    (ends : ∀ t x, P t → P ((t.detachAll k x).freeCase k))
    (returns : ∀ t c u, P t → P (t.returnUnits c u))
    (joins : ∀ t x, s.caseAt k = some x → P t → P (t.joinHead x.req))
    (refuses : ∀ t x, s.caseAt k = some x → P t → P (t.refuse x.req.owner x.req.tag .tableFull)) :
    P (s.trySettle k) := by
  cases collecting : s.caseAt k with
  | none =>
    rw [trySettle, collecting]
    exact start
  | some x =>
    by_cases short : x.earmark < x.req.units
    · rw [trySettle_of_short collecting short]
      exact start
    · by_cases room : s.tableHasRoom x.req.level = true
      · rw [trySettle_of_room collecting short room]
        exact returns _ _ _ (ends _ _ (create x collecting))
      · rw [trySettle_of_full collecting short room]
        have closed := returns _ x.target x.earmark (ends s x start)
        unfold closeWithoutGrant
        dsimp only
        split_ifs
        · exact joins _ x collecting closed
        · exact refuses _ x collecting closed

theorem tombstones_trySettle (s : State) (k : CaseId) : (s.trySettle k).table.tombstones = s.table.tombstones := by
  refine trySettle_induct (P := fun t => t.table.tombstones = s.table.tombstones) k rfl (fun x _ => ?_)
    (fun t x same => ?_) (fun t c u same => ?_) (fun t x _ same => ?_) (fun t x _ same => ?_)
  · cases queue : s.table.freeQueue with
    | nil => rw [createGrant, queue]
    | cons i rest =>
      rw [createGrant_of_cons queue]
      simp [countAdmitted]
  · exact (Spares.table_detachAll t k x).2.1.trans same
  · rw [table_returnUnits, same]
  · rw [(t.joinHead_keeps _).1, same]
  · rw [(t.refuse_keeps _ _ _).1, same]

theorem tombstones_trySettleAttached (s : State) (k : Option CaseId) :
    (s.trySettleAttached k).table.tombstones = s.table.tombstones := by
  cases k with
  | none => rfl
  | some k => exact tombstones_trySettle s k

/-! ### The places of a handle on the carriers' lists -/

/-- No grant that is created now gets the handle: its entry is not in the free queue, or of another generation. -/
def NotMade (s : State) (h : Handle) : Prop :=
  h.index ∉ s.table.freeQueue ∨ (look s.table.entries h.index).gen ≠ h.gen

/-- Between the two states the handle has kept its places on the carriers' lists and its entry its generation, and the
entry has not come to the free queue. -/
structure SamePlaces (h : Handle) (s t : State) : Prop where
  free : h.index ∉ s.table.freeQueue → h.index ∉ t.table.freeQueue
  gen : (look t.table.entries h.index).gen = (look s.table.entries h.index).gen
  lists : ∀ c, (t.carrier c).occupancy.count h = (s.carrier c).occupancy.count h

namespace SamePlaces

variable {u : State}

theorem refl : SamePlaces h s s := ⟨id, rfl, fun _ => rfl⟩

theorem trans (a : SamePlaces h s t) (b : SamePlaces h t u) : SamePlaces h s u :=
  ⟨b.free ∘ a.free, b.gen.trans a.gen, fun c => (b.lists c).trans (a.lists c)⟩

theorem notMade (a : SamePlaces h s t) (made : s.NotMade h) : t.NotMade h :=
  made.imp a.free fun other => a.gen ▸ other

theorem quiet (table : t.table = s.table) (pool : t.pool = s.pool) : SamePlaces h s t := by
  refine ⟨by rw [table]; exact id, by rw [table], fun c => ?_⟩
  rw [carrier, pool]
  rfl

theorem returnUnits (s : State) (c : CarrierId) (u : Nat) : SamePlaces h s (s.returnUnits c u) := by
  rw [returnUnits_eq]
  exact quiet rfl rfl

/-- Another handle leaves a carrier's list. -/
theorem leave (other : h' ≠ h) (s : State) (c : CarrierId) (u : Nat) (dest : UnitsTo) (v : VictimState)
    (k : Option CaseId) : SamePlaces h s (((s.unlist c h').giveUnits c u dest).markAttached h' v k) := by
  have unlisted : SamePlaces h s (s.unlist c h') := by
    refine ⟨id, rfl, fun d => ?_⟩
    rw [carrier, unlist, modCarrier, look_put]
    split_ifs with here
    · subst here
      exact List.count_erase_of_ne other.symm
    · rfl
  refine unlisted.trans ?_
  generalize s.unlist c h' = t
  obtain ⟨given, give, -⟩ := t.giveUnits_eq c u dest
  refine (quiet (t := t.giveUnits c u dest) (by rw [give]) (by rw [give])).trans ?_
  obtain ⟨marked, mark, -⟩ := (t.giveUnits c u dest).markAttached_eq h' v k
  exact quiet (by rw [mark]) (by rw [mark])

theorem recycle {j : GrantIndex} (other : h.index ≠ j) (s : State) : SamePlaces h s (s.recycle j) := by
  rw [recycle_eq]
  refine ⟨fun free => ?_, ?_, fun c => rfl⟩
  · simpa using ⟨free, other⟩
  · exact congrArg Entry.gen (look_put_ne _ other _)

theorem modTombstones (s : State) (m : MasterId) (f : List Handle → List Handle) :
    SamePlaces h s (s.modTombstones m f) := ⟨id, rfl, fun _ => rfl⟩

/-- The grant of another entry is freed. -/
theorem freeGrant (other : h.index ≠ h'.index) (s : State) : SamePlaces h s (s.freeGrant h') := by
  have ne : h' ≠ h := fun same => other (by rw [same])
  cases named : s.grantAt h' with
  | none =>
    rw [State.freeGrant, named]
    exact refl
  | some g =>
    by_cases revoked : ∃ cause, g.phase = .revoked cause
    · obtain ⟨cause, phase⟩ := revoked
      rw [freeGrant_of_revoked named phase]
      exact (modTombstones _ _ _).trans (recycle other _)
    · rw [freeGrant_of_listed named (not_exists.mp revoked)]
      exact (leave ne _ _ _ _ _ _).trans (recycle other _)

theorem setGrant (s : State) (h' : Handle) (g : Grant) : SamePlaces h s (s.setGrant h' g) := by
  refine ⟨id, ?_, fun _ => rfl⟩
  rw [table_setGrant]
  change Entry.gen (look (put _ _ _) _) = _
  rw [look_put]
  split_ifs with here
  · rw [here]
  · rfl

theorem takeAway (other : h.index ≠ h'.index) (s : State) (g : Grant) (cause : RevokeCause) (dest : UnitsTo) :
    SamePlaces h s (s.takeAway h' g cause dest) :=
  (setGrant s h' _).trans (leave (fun same => other (by rw [same])) _ _ _ _ _ _)

/-- A grant is created, under another handle. -/
theorem createGrant (made : s.NotMade h) (r : Request) (c : CarrierId) : SamePlaces h s (s.createGrant r c) := by
  cases queue : s.table.freeQueue with
  | nil =>
    rw [State.createGrant, queue]
    exact refl
  | cons i rest =>
    have other : (⟨(look s.table.entries i).gen, i⟩ : Handle) ≠ h := by
      rintro rfl
      rcases made with free | older
      · rw [queue] at free
        exact free List.mem_cons_self
      · exact older rfl
    rw [createGrant_of_cons queue]
    generalize (⟨(look s.table.entries i).gen, i⟩ : Handle) = h' at other
    refine (setGrant s h' ⟨r.owner, r.tag, r.code, r.level, c, r.units, s.startPhase r⟩).trans ?_
    have before : (s.setGrant h' ⟨r.owner, r.tag, r.code, r.level, c, r.units, s.startPhase r⟩).table.freeQueue =
        i :: rest := queue
    generalize s.setGrant h' ⟨r.owner, r.tag, r.code, r.level, c, r.units, s.startPhase r⟩ = t at before
    have listed : SamePlaces h t ((t.setFreeQueue rest).modCarrier c fun k =>
        { k with occupancy := k.occupancy ++ [h'] }) := by
      refine ⟨fun free mem => free (before ▸ List.mem_cons_of_mem _ mem), rfl, fun d => ?_⟩
      rw [carrier, modCarrier, look_put]
      split_ifs with here
      · subst here
        exact (List.count_append ..).trans (by rw [List.count_singleton, if_neg (by simpa using other)]; rfl)
      · rfl
    refine listed.trans (quiet ?_ ?_)
    · rw [countAdmitted, table_modStats, table_offer]
    · rw [countAdmitted, pool_modStats, pool_offer]

theorem endCase (s : State) (k : CaseId) (x : Case) : SamePlaces h s ((s.detachAll k x).freeCase k) := by
  obtain ⟨freeQueue, -, entries⟩ := Spares.table_detachAll s k x
  refine ⟨fun free => ?_, ?_, fun c => ?_⟩
  · exact fun mem => free (freeQueue ▸ mem)
  · rcases entries h.index with same | ⟨g, cause, d, -, -, lost⟩
    · exact congrArg Entry.gen same
    · have gen := congrArg Entry.gen lost
      exact gen
  · rw [detachAll_eq_entries]
    rfl

/-- A case that may settle creates no grant under the handle. -/
theorem trySettle (made : s.NotMade h) (k : CaseId) : SamePlaces h s (s.trySettle k) :=
  trySettle_induct k refl (fun x _ => createGrant made x.req x.target) (fun _ x before => before.trans (endCase _ k x))
    (fun _ c u before => before.trans (returnUnits _ c u))
    (fun t x _ before => before.trans (quiet (t.joinHead_keeps x.req).1 (t.joinHead_keeps x.req).2.1))
    (fun t _ _ before => before.trans (quiet (t.refuse_keeps _ _ _).1 (t.refuse_keeps _ _ _).2.1))

theorem trySettleAttached (made : s.NotMade h) (k : Option CaseId) : SamePlaces h s (s.trySettleAttached k) := by
  cases k with
  | none => exact refl
  | some k => exact trySettle made k

end SamePlaces

end State

end Sys2Proof.Machine
end

section
/-! One turn of a link event: where the units of the grant go, and what becomes of the entries that are not its concern
(R13, R57, R58, R59, R60). -/

namespace Sys2Proof.Machine

/-! ### The units of a grant that leaves its list -/

namespace State.UnitsLeft

variable {s t u : State} {m : MasterId} {i : GrantIndex} {h : Handle} {g : Grant}

/-- The units stay where they went: what the claim does afterwards takes none from a case and lists the handle nowhere. -/
theorem after (left : s.UnitsLeft t i g) (goes : Proceeds t u)
    (lists : ∀ c, (u.carrier c).occupancy.count (s.handleOf i) = (t.carrier c).occupancy.count (s.handleOf i)) :
    s.UnitsLeft u i g := by
  unfold UnitsLeft at left ⊢
  have off (was : (t.carrier g.carrier).occupancy.count (s.handleOf i) =
      (s.carrier g.carrier).occupancy.count (s.handleOf i) - 1) :
      (u.carrier g.carrier).occupancy.count (s.handleOf i) =
        (s.carrier g.carrier).occupancy.count (s.handleOf i) - 1 := (lists _).trans was
  cases phase : g.phase with
  | held d =>
    simp only [phase] at left
    exact ⟨off left.1, left.2.imp_right fun mem => goes.due mem⟩
  | active =>
    simp only [phase] at left
    exact ⟨off left.1, left.2.imp_right fun mem => goes.due mem⟩
  | revoked cause => trivial
  | recalled cause d j =>
    cases j with
    | none =>
      simp only [phase] at left
      exact ⟨off left.1, left.2.imp_right fun mem => goes.due mem⟩
    | some j =>
      simp only [phase] at left
      refine ⟨off left.1, ?_⟩
      cases now : u.caseAt j with
      | none => exact .inl rfl
      | some z =>
        obtain ⟨y, was, -, more⟩ := goes.cases j z now
        rcases left.2 with ended | ⟨x, y', before, is, enough⟩
        · rw [was] at ended
          cases ended
        · cases was.symm.trans is
          exact .inr ⟨x, z, before, rfl, enough.trans more⟩

/-- A grant leaves its carrier's list, the units going where the grant's own phase sends them (R13). -/
theorem leave (pool : t.pool = s.pool) (cases : t.recallUnit = s.recallUnit) (v : VictimState) :
    s.UnitsLeft (((t.unlist g.carrier (s.handleOf i)).giveUnits g.carrier g.units g.phase.unitsTo).markAttached
      (s.handleOf i) v g.phase.attached) i g := by
  have erased : ((t.unlist g.carrier (s.handleOf i)).carrier g.carrier).occupancy =
      (s.carrier g.carrier).occupancy.erase (s.handleOf i) := by
    rw [carrier, unlist, modCarrier, look_put_same, pool]
    rfl
  have at_ (j : CaseId) : (t.unlist g.carrier (s.handleOf i)).caseAt j = s.caseAt j := by
    change look t.recallUnit.cases j = _
    rw [cases]
    rfl
  generalize t.unlist g.carrier (s.handleOf i) = t' at erased at_
  have off : ((((t'.giveUnits g.carrier g.units g.phase.unitsTo).markAttached (s.handleOf i) v
      g.phase.attached)).carrier g.carrier).occupancy.count (s.handleOf i) =
      (s.carrier g.carrier).occupancy.count (s.handleOf i) - 1 := by
    obtain ⟨given, give, -⟩ := t'.giveUnits_eq g.carrier g.units g.phase.unitsTo
    obtain ⟨marked, mark, -⟩ :=
      (t'.giveUnits g.carrier g.units g.phase.unitsTo).markAttached_eq (s.handleOf i) v g.phase.attached
    have same : (((t'.giveUnits g.carrier g.units g.phase.unitsTo).markAttached (s.handleOf i) v
        g.phase.attached)).carrier g.carrier = t'.carrier g.carrier := by
      rw [mark, give]
      rfl
    rw [same, erased, List.count_erase_self]
  unfold UnitsLeft
  cases phase : g.phase with
  | held d =>
    rw [phase] at off
    exact ⟨off, mem_due_returnUnits _ _ _⟩
  | active =>
    rw [phase] at off
    exact ⟨off, mem_due_returnUnits _ _ _⟩
  | revoked cause => trivial
  | recalled cause d j =>
    rw [phase] at off
    cases j with
    | none => exact ⟨off, mem_due_returnUnits _ _ _⟩
    | some j =>
      refine ⟨off, ?_⟩
      have moved : (((t'.addEarmark j g.units).markVictim j (s.handleOf i) v)).caseAt j = (s.caseAt j).map fun x =>
          { x with
            earmark := x.earmark + g.units
            victims := x.victims.map fun w => if w.handle = s.handleOf i then { w with state := v } else w } := by
        rw [markVictim, addEarmark, caseAt_modCase, if_pos rfl, caseAt_modCase, if_pos rfl, at_, Option.map_map]
        rfl
      cases was : s.caseAt j with
      | none =>
        rw [was] at moved
        exact .inl moved
      | some x =>
        rw [was] at moved
        exact .inr ⟨x, _, rfl, moved, le_rfl⟩

theorem freeGrant (holds : (look s.table.entries i).grant = some g) :
    s.UnitsLeft (s.freeGrant (s.handleOf i)) i g := by
  have named : s.grantAt (s.handleOf i) = some g := (s.grantAt_handleOf i).trans holds
  by_cases revoked : ∃ cause, g.phase = .revoked cause
  · obtain ⟨cause, phase⟩ := revoked
    unfold UnitsLeft
    rw [phase]
    trivial
  · rw [freeGrant_of_listed named (not_exists.mp revoked)]
    refine (leave rfl rfl .released).after (Proceeds.recycle _ _) fun c => ?_
    rw [recycle_eq]
    rfl

end State.UnitsLeft

/-! ### Entries that a turn passes by -/

theorem State.KeptButDetached.trans {s t u : State} {i : GrantIndex}
    (h : s.KeptButDetached t i) (k : t.KeptButDetached u i)
    (cases : ∀ k, t.caseAt k = none → u.caseAt k = none) : s.KeptButDetached u i := by
  rcases h with a | ⟨g, c, d, j, holds, phase, ended, lost⟩
  · rcases k with b | ⟨g', c', d', j', holds', phase', ended', lost'⟩
    · exact .inl (b.trans a)
    · rw [a] at holds' lost'
      exact .inr ⟨g', c', d', j', holds', phase', ended', lost'⟩
  · rcases k with b | ⟨g', c', d', j', holds', phase', -⟩
    · exact .inr ⟨g, c, d, j, holds, phase, cases j ended, b.trans lost⟩
    · rw [lost] at holds'
      cases holds'
      cases phase'

/-- The step passes entry i by: its grant is kept, attached or detached, its handles keep their places, no case opens. -/
structure Passes (i : GrantIndex) (s t : State) : Prop where
  entry : s.KeptButDetached t i
  cases : ∀ k, s.caseAt k = none → t.caseAt k = none
  places : ∀ h, h.index = i → State.SamePlaces h s t

namespace Passes

variable {s t u : State} {m : MasterId} {i j : GrantIndex} {g : Grant} {fate : Grant → GrantFate}

theorem of_spares (spares : Spares i s t) (places : ∀ h, h.index = i → State.SamePlaces h s t) : Passes i s t :=
  ⟨spares.entry, spares.cases, places⟩

theorem refl : Passes i s s := of_spares .refl fun _ _ => .refl

theorem free (h : Passes i s t) : i ∉ s.table.freeQueue → i ∉ t.table.freeQueue := (h.places ⟨0, i⟩ rfl).free

theorem trans (h : Passes i s t) (k : Passes i t u) : Passes i s u :=
  ⟨h.entry.trans k.entry k.cases, fun j e => k.cases j (h.cases j e), fun x e => (h.places x e).trans (k.places x e)⟩

theorem handleOf (h : Passes i s t) : t.handleOf i = s.handleOf i := by
  rw [State.handleOf, State.handleOf, h.entry.gen]

/-- The units that go from the grant once a claim has passed it by go from the grant it was before. -/
theorem unitsLeft {g' : Grant} (h : Passes i s t) (goes : Proceeds s t) (goes' : Proceeds t u)
    (holds : (look s.table.entries i).grant = some g) (holds' : (look t.table.entries i).grant = some g')
    (left : t.UnitsLeft u i g') : s.UnitsLeft u i g := by
  have lists (c : CarrierId) := (h.places (s.handleOf i) rfl).lists c
  have handle : (⟨(look t.table.entries i).gen, i⟩ : Handle) = s.handleOf i := h.handleOf
  unfold State.UnitsLeft at left ⊢
  rw [handle] at left
  simp only [lists] at left
  rcases h.entry with same | ⟨g₀, cause, d, j, had, phase, ended, lost⟩
  · cases (holds.symm.trans (congrArg Entry.grant same.symm)).trans holds'
    cases phase : g.phase with
    | held d =>
      rw [phase] at left
      exact left
    | active =>
      rw [phase] at left
      exact left
    | revoked cause => trivial
    | recalled cause d j =>
      rw [phase] at left
      cases j with
      | none => exact left
      | some j =>
        refine ⟨left.1, left.2.imp_right fun ⟨x, y, before, is, enough⟩ => ?_⟩
        obtain ⟨x₀, was, -, more⟩ := goes.cases j x before
        exact ⟨x₀, y, was, is, (Nat.add_le_add_right more _).trans enough⟩
  · cases holds.symm.trans had
    rw [lost] at holds'
    cases holds'
    rw [phase]
    exact ⟨left.1, .inl (goes'.caseAt_none ended)⟩

end Passes

end Sys2Proof.Machine
end

section
/-! The turns of a link event that revokes: what becomes of the grants it takes, of the tombstones, and of all others (R57,
R59, R60). -/

namespace Sys2Proof.Machine

/-- The fate frees none, and a grant's fate is not that of its case. -/
structure RevokesOnly (fate : Grant → GrantFate) : Prop where
  never : ∀ g, fate g ≠ .freed
  stable : ∀ g cause d j, g.phase = .recalled cause d (some j) →
    fate { g with phase := .recalled cause d none } = fate g

/-- No grant that the fate takes is attached to a case. -/
def Alone (fate : Grant → GrantFate) : Prop := ∀ g, fate g ≠ .kept → g.phase.attached = none

/-- What a revocation for an orphan makes of a grant. -/
def Grant.orphaned (g : Grant) : Grant := { g with units := 0, phase := .revoked .orphan }

/-- A grant that the fate keeps, or one of another master. -/
def Grant.Stays (g : Grant) (m : MasterId) (fate : Grant → GrantFate) : Prop := g.owner = m → fate g = .kept

namespace State

variable {s t u : State} {m : MasterId} {i j : GrantIndex} {h : Handle} {g : Grant} {fate : Grant → GrantFate}

/-- A claim with the fate creates no grant in the entry: it is not in the free queue, or the claim settles no case. -/
def Calm (s : State) (fate : Grant → GrantFate) (i : GrantIndex) : Prop := i ∉ s.table.freeQueue ∨ Alone fate

/-- The fate takes the grant of the entry from the master. -/
def takes (s : State) (m : MasterId) (fate : Grant → GrantFate) (i : GrantIndex) : Bool :=
  (look s.table.entries i).grant.any fun g => decide (g.owner = m) && decide (fate g = .revokedOrphan)

theorem takes_iff : s.takes m fate i = true ↔
    ∃ g, (look s.table.entries i).grant = some g ∧ g.owner = m ∧ fate g = .revokedOrphan := by
  rw [takes, Option.any_eq_true]
  simp

theorem takes_of_entry (same : look t.table.entries i = look s.table.entries i) : t.takes m fate i = s.takes m fate i := by
  rw [takes, takes, same]

/-- A grant that has only lost its case is taken as before. -/
theorem takes_of_detached (only : RevokesOnly fate) (kept : s.KeptButDetached t i) :
    t.takes m fate i = s.takes m fate i := by
  rcases kept with same | ⟨g, cause, d, j, holds, phase, -, lost⟩
  · exact takes_of_entry same
  · rw [takes, takes, lost, holds, Option.any_some, Option.any_some, only.stable g cause d j phase]

theorem meetFate_of_not_takes (only : RevokesOnly fate) (stays : ¬s.takes m fate i = true) : meetFate m fate s i = s := by
  cases holds : (look s.table.entries i).grant with
  | none => exact meetFate_of_free holds
  | some g =>
    by_cases own : g.owner = m
    · refine meetFate_of_kept holds ?_
      cases f : fate g with
      | kept => rfl
      | freed => exact absurd f (only.never g)
      | revokedOrphan => exact absurd (takes_iff.mpr ⟨g, holds, own, f⟩) stays
    · exact meetFate_of_other holds own

/-- A turn that takes a grant. -/
theorem meetFate_of_takes (holds : (look s.table.entries i).grant = some g) (taken : s.takes m fate i = true) :
    meetFate m fate s i =
        (s.revoke (s.handleOf i) .orphan g.phase.unitsTo).trySettleAttached g.phase.attached ∧ g.owner = m := by
  obtain ⟨g', holds', own, revoked⟩ := takes_iff.mp taken
  cases holds.symm.trans holds'
  exact ⟨meetFate_of_revoked holds own revoked, own⟩

/-! ### The tombstone list -/

theorem addTombstone_cases (s : State) (m : MasterId) (h : Handle) :
    s.addTombstone m h = s.modTombstones m (fun l => l ++ [h]) ∨
    ∃ oldest rest, look s.table.tombstones m = oldest :: rest ∧
      s.addTombstone m h =
        ((s.modTombstones m fun _ => rest).freeGrant oldest).modTombstones m fun l => l ++ [h] := by
  cases stones : look s.table.tombstones m with
  | nil =>
    left
    rw [addTombstone, stones]
  | cons oldest rest =>
    by_cases few : rest.length + 1 < Config.tombstoneLimit
    · left
      rw [addTombstone, stones]
      exact congrArg (fun t : State => t.modTombstones m fun l => l ++ [h]) (if_pos few)
    · right
      refine ⟨oldest, rest, rfl, ?_⟩
      rw [addTombstone, stones]
      exact congrArg (fun t : State => t.modTombstones m fun l => l ++ [h]) (if_neg few)

/-- Freeing a grant adds no tombstone. -/
theorem tombstones_freeGrant_sublist (s : State) (h : Handle) (m : MasterId) :
    (look (s.freeGrant h).table.tombstones m).Sublist (look s.table.tombstones m) := by
  cases named : s.grantAt h with
  | none =>
    rw [freeGrant, named]
  | some g =>
    by_cases revoked : ∃ cause, g.phase = .revoked cause
    · obtain ⟨cause, phase⟩ := revoked
      rw [freeGrant_of_revoked named phase, table_recycle]
      change List.Sublist (look (put _ _ _) m) _
      rw [look_put]
      split_ifs with own
      · rw [own]
        exact List.erase_sublist
      · exact List.Sublist.refl _
    · rw [freeGrant_of_listed named (not_exists.mp revoked)]
      simp

/-- A revoked grant is the last tombstone; of those before it the list has none that were not there. -/
theorem tombstones_addTombstone (s : State) (m : MasterId) (h : Handle) :
    ∃ older, look (s.addTombstone m h).table.tombstones m = older ++ [h] ∧
      older.Sublist (look s.table.tombstones m) := by
  rcases s.addTombstone_cases m h with joined | ⟨oldest, rest, stones, freed⟩
  · refine ⟨look s.table.tombstones m, ?_, List.Sublist.refl _⟩
    rw [joined]
    simp
  · refine ⟨look ((s.modTombstones m fun _ => rest).freeGrant oldest).table.tombstones m, ?_, ?_⟩
    · rw [freed]
      simp
    · refine (tombstones_freeGrant_sublist _ oldest m).trans ?_
      rw [stones]
      simp

/-- A grant whose handle is no tombstone of the master keeps its entry when a tombstone joins the list. -/
theorem addTombstone_spares (fresh : s.handleOf i ∉ look s.table.tombstones m) (h : Handle) :
    look (s.addTombstone m h).table.entries i = look s.table.entries i ∧
      (i ∉ s.table.freeQueue → i ∉ (s.addTombstone m h).table.freeQueue) := by
  rcases s.addTombstone_cases m h with joined | ⟨oldest, rest, stones, freed⟩
  · rw [joined]
    exact ⟨rfl, id⟩
  · have other : i ≠ oldest.index ∨ (s.modTombstones m fun _ => rest).grantAt oldest = none := by
      by_cases here : oldest.index = i
      · refine .inr (Spares.grantAt_none _ here fun same => fresh ?_)
        rw [stones, same]
        exact List.mem_cons_self
      · exact .inl (Ne.symm here)
    have entry := (Untouched.freeGrant other).entry
    have free := (Spares.freeGrant _ other).free
    rw [freed]
    exact ⟨entry, free⟩

/-! ### A grant is revoked -/

/-- What a revocation leaves, by the state between its two halves. -/
theorem revoke_keeps (named : s.grantAt h = some g) (cause : RevokeCause) (dest : UnitsTo) :
    (s.revoke h cause dest).table = ((s.takeAway h g cause dest).addTombstone g.owner h).table ∧
    (s.revoke h cause dest).pool = ((s.takeAway h g cause dest).addTombstone g.owner h).pool ∧
    (s.revoke h cause dest).recallUnit = ((s.takeAway h g cause dest).addTombstone g.owner h).recallUnit := by
  rw [revoke_of_grantAt named]
  simp [countRevoked]

theorem takeAway_table (named : s.grantAt h = some g) (cause : RevokeCause) (dest : UnitsTo) :
    (s.takeAway h g cause dest).table = { s.table with
      entries := put s.table.entries h.index ⟨h.gen, some { g with units := 0, phase := .revoked cause }⟩ } := by
  obtain ⟨_, taken, -⟩ := takeAway_eq named cause dest
  rw [taken]

/-- With room on its owner's tombstone list a revocation frees nothing. -/
theorem revoke_of_room (named : s.grantAt h = some g) (room : (look s.table.tombstones g.owner).length < 16)
    (cause : RevokeCause) (dest : UnitsTo) :
    (s.revoke h cause dest).table = { s.table with
      entries := put s.table.entries h.index ⟨h.gen, some { g with units := 0, phase := .revoked cause }⟩
      tombstones := put s.table.tombstones g.owner (look s.table.tombstones g.owner ++ [h]) } ∧
    (s.revoke h cause dest).pool = (s.takeAway h g cause dest).pool ∧
    (s.revoke h cause dest).recallUnit = (s.takeAway h g cause dest).recallUnit := by
  obtain ⟨table, pool, recallUnit⟩ := revoke_keeps named cause dest
  have half := takeAway_table named cause dest
  have joined := addTombstone_of_few (s := s.takeAway h g cause dest) (m := g.owner) (by rw [half]; exact room) h
  rw [table, pool, recallUnit, joined, table_modTombstones, half]
  exact ⟨rfl, rfl, rfl⟩

/-- A revoked grant has its units where they go, when nothing is freed for it. -/
theorem unitsLeft_revoke (holds : (look s.table.entries i).grant = some g)
    (room : (look s.table.tombstones g.owner).length < 16) :
    s.UnitsLeft (s.revoke (s.handleOf i) .orphan g.phase.unitsTo) i g := by
  have named : s.grantAt (s.handleOf i) = some g := (s.grantAt_handleOf i).trans holds
  have left : s.UnitsLeft (s.takeAway (s.handleOf i) g .orphan g.phase.unitsTo) i g := by
    unfold takeAway
    exact UnitsLeft.leave (s := s) (i := i) (g := g) (t := s.setGrant (s.handleOf i) g.orphaned) rfl rfl .revoked
  have rest : Proceeds (s.takeAway (s.handleOf i) g .orphan g.phase.unitsTo)
      (s.revoke (s.handleOf i) .orphan g.phase.unitsTo) := by
    rw [revoke_of_grantAt named]
    exact ((Proceeds.addTombstone _ _ _).trans (.offer _ _ _)).trans (.countRevoked _ _)
  refine left.after rest fun c => ?_
  rw [carrier, (revoke_of_room named room .orphan _).2.1]
  rfl

end State

end Sys2Proof.Machine
end

section
/-! The claim of a link event that revokes (R59, R60): with room for its tombstones, and without. -/

namespace Sys2Proof.Machine

variable {s t u : State} {m : MasterId} {i j : GrantIndex} {g : Grant} {fate : Grant → GrantFate}

namespace Passes

/-- A turn of another entry that frees the grant, or has room for its tombstone, passes an entry by. -/
theorem meetFate (other : i ≠ j) (calm : s.Calm fate i)
    (room : s.takes m fate j = true → (look s.table.tombstones m).length < 16) :
    Passes i s (State.meetFate m fate s j) := by
  have settled (t : State) (k : Option CaseId) (passed : Passes i s t) (attached : Alone fate → k = none) :
      Passes i s (t.trySettleAttached k) := by
    rcases calm with free | alone
    · exact passed.trans (of_spares (.trySettleAttached k (passed.free free)) fun h here =>
        .trySettleAttached (.inl (here ▸ passed.free free)) k)
    · rw [attached alone]
      exact passed
  cases holds : (look s.table.entries j).grant with
  | none =>
    rw [State.meetFate_of_free holds]
    exact refl
  | some g =>
    by_cases own : g.owner = m
    case neg =>
      rw [State.meetFate_of_other holds own]
      exact refl
    cases f : fate g with
    | kept =>
      rw [State.meetFate_of_kept holds f]
      exact refl
    | freed =>
      rw [State.meetFate_of_freed holds own f]
      refine settled _ _ ?_ fun alone => alone g (by rw [f]; simp)
      exact of_spares (Spares.freeGrant s (.inl other)) fun h here => .freeGrant (by rw [here]; exact other) s
    | revokedOrphan =>
      rw [State.meetFate_of_revoked holds own f]
      refine settled _ _ ?_ fun alone => alone g (by rw [f]; simp)
      have named : s.grantAt (s.handleOf j) = some g := (s.grantAt_handleOf j).trans holds
      have few : (look s.table.tombstones g.owner).length < 16 := own ▸ room (State.takes_iff.mpr ⟨g, holds, own, f⟩)
      obtain ⟨table, pool, recallUnit⟩ := State.revoke_of_room named few .orphan g.phase.unitsTo
      have goes : Proceeds s (s.revoke (s.handleOf j) .orphan g.phase.unitsTo) := .revoke _ _ _ _
      refine ⟨.inl ?_, fun k ended => goes.caseAt_none ended, fun h here => ?_⟩
      · rw [table]
        exact look_put_ne _ other _
      · have taken : State.SamePlaces h s (s.takeAway (s.handleOf j) g .orphan g.phase.unitsTo) :=
          .takeAway (by rw [here]; exact other) _ _ _ _
        refine ⟨fun free => ?_, ?_, fun c => ?_⟩
        · rw [table]
          exact free
        · rw [table, here]
          exact congrArg Entry.gen (look_put_ne _ other _)
        · rw [State.carrier, pool]
          exact taken.lists c

end Passes

theorem State.Calm.of_passes (calm : s.Calm fate i) (passed : Passes i s t) : t.Calm fate i :=
  calm.imp_left passed.free

/-! ### A claim with room for its tombstones -/

/-- The tombstones of the master once a turn with room has been served. -/
theorem tombstones_meetFate (only : RevokesOnly fate)
    (room : s.takes m fate j = true → (look s.table.tombstones m).length < 16) :
    look (State.meetFate m fate s j).table.tombstones m =
      look s.table.tombstones m ++ if s.takes m fate j = true then [s.handleOf j] else [] := by
  by_cases taken : s.takes m fate j = true
  · obtain ⟨g, holds, own, -⟩ := State.takes_iff.mp taken
    have named : s.grantAt (s.handleOf j) = some g := (s.grantAt_handleOf j).trans holds
    obtain ⟨turn, -⟩ := State.meetFate_of_takes holds taken
    obtain ⟨table, -⟩ := State.revoke_of_room named (own ▸ room taken) .orphan g.phase.unitsTo
    rw [turn, State.tombstones_trySettleAttached, table, if_pos taken, own, look_put_same]
  · rw [State.meetFate_of_not_takes only taken, if_neg taken, List.append_nil]

/-- A turn that takes a grant, with room for its tombstone. -/
theorem takenTurn_of_room (holds : (look s.table.entries i).grant = some g) (taken : s.takes m fate i = true)
    (calm : s.Calm fate i) (room : (look s.table.tombstones m).length < 16) :
    look (State.meetFate m fate s i).table.entries i = ⟨(look s.table.entries i).gen, some g.orphaned⟩ ∧
      s.UnitsLeft (State.meetFate m fate s i) i g ∧
      (i ∉ s.table.freeQueue → i ∉ (State.meetFate m fate s i).table.freeQueue) := by
  obtain ⟨turn, own⟩ := State.meetFate_of_takes holds taken
  obtain ⟨g', holds', -, revoked⟩ := State.takes_iff.mp taken
  cases holds.symm.trans holds'
  have named : s.grantAt (s.handleOf i) = some g := (s.grantAt_handleOf i).trans holds
  obtain ⟨table, -⟩ := State.revoke_of_room named (own ▸ room) .orphan g.phase.unitsTo
  have left := State.unitsLeft_revoke holds (own ▸ room)
  have written : look (s.revoke (s.handleOf i) .orphan g.phase.unitsTo).table.entries i =
      ⟨(look s.table.entries i).gen, some g.orphaned⟩ := by
    rw [table]
    exact look_put_same _ _ _
  have queue : (s.revoke (s.handleOf i) .orphan g.phase.unitsTo).table.freeQueue = s.table.freeQueue := by
    rw [table]
  rw [turn]
  generalize s.revoke (s.handleOf i) .orphan g.phase.unitsTo = t at left written queue
  rcases calm with free | alone
  · have spared : Spares i t (t.trySettleAttached g.phase.attached) := .trySettleAttached _ (queue ▸ free)
    refine ⟨?_, left.after (.trySettleAttached _ _) fun c => ?_, fun free => spared.free (queue ▸ free)⟩
    · rcases spared.entry with same | ⟨g', cause, d, j, holds', phase, -⟩
      · exact same.trans written
      · rw [written] at holds'
        cases holds'
        cases phase
    · exact (State.SamePlaces.trySettleAttached (h := s.handleOf i) (.inl (queue ▸ free)) _).lists c
  · rw [alone g (by rw [revoked]; simp)]
    exact ⟨written, left, fun free => queue ▸ free⟩

/-- What a claim leaves that had room for the tombstones of all the grants it took in its turns. -/
structure TookWithRoom (m : MasterId) (fate : Grant → GrantFate) (l : List GrantIndex) (s u : State) : Prop where
  stones : look u.table.tombstones m = look s.table.tombstones m ++ (l.filter (s.takes m fate)).map s.handleOf
  passes : ∀ i, (i ∈ l → ¬s.takes m fate i = true) → s.Calm fate i → Passes i s u
  taken : ∀ i ∈ l, s.takes m fate i = true → ∀ g, (look s.table.entries i).grant = some g →
    look u.table.entries i = ⟨(look s.table.entries i).gen, some g.orphaned⟩ ∧ s.UnitsLeft u i g

/-- A grant that is passed by stays the grant that a revocation makes the same record of. -/
theorem Passes.grant (passed : Passes i s t) (holds : (look s.table.entries i).grant = some g) :
    ∃ g', (look t.table.entries i).grant = some g' ∧ g'.orphaned = g.orphaned := by
  rcases passed.entry with same | ⟨g', cause, d, j, holds', -, -, lost⟩
  · exact ⟨g, by rw [same, holds], rfl⟩
  · cases holds.symm.trans holds'
    exact ⟨{ g with phase := .recalled cause d none }, by rw [lost], rfl⟩

/-- A revoked grant that is passed by stays as it is. -/
theorem Passes.entry_of_orphaned {gen : Fin 64} (passed : Passes i s t)
    (orphan : look s.table.entries i = ⟨gen, some g.orphaned⟩) : look t.table.entries i = ⟨gen, some g.orphaned⟩ := by
  rcases passed.entry with same | ⟨g', cause, d, j, holds, phase, -⟩
  · exact same.trans orphan
  · rw [orphan] at holds
    cases holds
    cases phase

/-- R59, R60: with room for the tombstones of all that it takes, a claim adds them in order, and frees none. -/
theorem tookWithRoom (only : RevokesOnly fate) (l : List GrantIndex) (once : l.Nodup) (s : State)
    (calm : ∀ j ∈ l, s.Calm fate j)
    (room : (look s.table.tombstones m).length + (l.filter (s.takes m fate)).length ≤ 16) :
    TookWithRoom m fate l s (l.foldl (State.meetFate m fate) s) := by
  induction l generalizing s with
  | nil => exact ⟨by simp, fun i _ _ => .refl, fun i mem => by cases mem⟩
  | cons j rest ih =>
    obtain ⟨fresh, once⟩ := List.nodup_cons.mp once
    have here : s.takes m fate j = true → (look s.table.tombstones m).length < 16 := fun taken => by
      rw [List.filter_cons_of_pos taken, List.length_cons] at room
      omega
    have passes (i : GrantIndex) (other : i ≠ j) (calm : s.Calm fate i) := Passes.meetFate (m := m) other calm here
    have goes := Proceeds.meetFate m fate s j
    have own (g : Grant) := takenTurn_of_room (m := m) (fate := fate) (s := s) (i := j) (g := g)
    have still := State.meetFate_of_not_takes (m := m) (s := s) (i := j) only
    have stones := tombstones_meetFate only here
    have calmHere := calm j List.mem_cons_self
    rw [List.foldl_cons]
    generalize State.meetFate m fate s j = t at passes goes own still stones ⊢
    have different (k : GrantIndex) (mem : k ∈ rest) : k ≠ j := fun same => fresh (same ▸ mem)
    have passed (k : GrantIndex) (mem : k ∈ rest) : Passes k s t :=
      passes k (different k mem) (calm k (List.mem_cons_of_mem _ mem))
    have takes : rest.filter (t.takes m fate) = rest.filter (s.takes m fate) :=
      List.filter_congr fun k mem => State.takes_of_detached only (passed k mem).entry
    have handles : (rest.filter (s.takes m fate)).map t.handleOf = (rest.filter (s.takes m fate)).map s.handleOf :=
      List.map_congr_left fun k mem => (passed k (List.mem_of_mem_filter mem)).handleOf
    have later := ih once t (fun k mem => (calm k (List.mem_cons_of_mem _ mem)).of_passes (passed k mem)) (by
        rw [takes, stones]
        by_cases taken : s.takes m fate j = true
        · rw [List.filter_cons_of_pos taken, List.length_cons] at room
          rw [if_pos taken, List.length_append, List.length_singleton]
          omega
        · rw [List.filter_cons_of_neg taken] at room
          rw [if_neg taken, List.append_nil]
          exact room)
    have goesOn := Proceeds.foldl (Proceeds.meetFate m fate) rest t
    generalize rest.foldl (State.meetFate m fate) t = u at later goesOn
    refine ⟨?stones, fun i kept calm => ?passes, fun i mem taken g holds => ?taken⟩
    case stones =>
      rw [later.stones, takes, handles, stones]
      by_cases taken : s.takes m fate j = true
      · rw [if_pos taken, List.filter_cons_of_pos taken, List.map_cons, List.append_assoc]
        rfl
      · rw [if_neg taken, List.filter_cons_of_neg taken, List.append_nil]
    case passes =>
      by_cases same : i = j
      · subst same
        have same := still (kept List.mem_cons_self)
        rw [same] at later
        exact later.passes i (fun mem => absurd mem fresh) calmHere
      · have first := passes i same calm
        refine first.trans (later.passes i (fun mem => ?_) (calm.of_passes first))
        rw [State.takes_of_detached only first.entry]
        exact kept (List.mem_cons_of_mem _ mem)
    case taken =>
      rcases List.mem_cons.mp mem with rfl | mem
      · obtain ⟨orphan, left, free⟩ := own g holds taken calmHere (here taken)
        have last := later.passes i (fun mem => absurd mem fresh) (calmHere.imp_left free)
        exact ⟨last.entry_of_orphaned orphan, left.after goesOn (last.places (s.handleOf i) rfl).lists⟩
      · have first := passed i mem
        obtain ⟨g', holds', record⟩ := first.grant holds
        obtain ⟨orphan, left⟩ :=
          later.taken i mem (by rw [State.takes_of_detached only first.entry, taken]) g' holds'
        rw [first.entry.gen, record] at orphan
        exact ⟨orphan, first.unitsLeft goes goesOn holds holds' left⟩

end Sys2Proof.Machine
end

section
/-! The claim of a link event that revokes, whatever room its tombstones find (R59, R60): the entries that no tombstone
names, the tombstones that stand at its end, and that it leaves none of the grants it takes. -/

namespace Sys2Proof.Machine

variable {s t u : State} {m : MasterId} {i j : GrantIndex} {g : Grant} {fate : Grant → GrantFate}

/-! ### Entries that no tombstone of the master names -/

theorem Spares.turn (other : i ≠ j) (only : RevokesOnly fate) (calm : s.Calm fate i)
    (fresh : s.handleOf i ∉ look s.table.tombstones m) : Spares i s (State.meetFate m fate s j) := by
  rcases calm with free | alone
  · exact .meetFate m fate s other free fresh
  · by_cases taken : s.takes m fate j = true
    · obtain ⟨g, holds, own, revoked⟩ := State.takes_iff.mp taken
      have named : s.grantAt (s.handleOf j) = some g := (s.grantAt_handleOf j).trans holds
      rw [(State.meetFate_of_takes holds taken).1, alone g (by rw [revoked]; simp)]
      refine .revoke s .orphan _ other fun g' named' => ?_
      cases named.symm.trans named'
      exact own ▸ fresh
    · rw [State.meetFate_of_not_takes only taken]
      exact .refl

/-- R59: a claim passes by an entry that it does not take, and that no tombstone of the master names. -/
theorem Spares.turns (only : RevokesOnly fate) (l : List GrantIndex) (s : State)
    (kept : i ∈ l → ¬s.takes m fate i = true) (calm : s.Calm fate i)
    (fresh : s.handleOf i ∉ look s.table.tombstones m) : Spares i s (l.foldl (State.meetFate m fate) s) := by
  induction l generalizing s with
  | nil => exact .refl
  | cons j rest ih =>
    rw [List.foldl_cons]
    by_cases same : i = j
    · subst same
      have stays := kept List.mem_cons_self
      rw [State.meetFate_of_not_takes only stays]
      exact ih s (fun _ => stays) calm fresh
    · have first := Spares.turn (m := m) same only calm fresh
      refine first.trans (ih _ (fun mem => ?_) (calm.imp_left first.free) ?_)
      · rw [State.takes_of_detached only first.entry]
        exact kept (List.mem_cons_of_mem _ mem)
      · rw [State.handleOf, first.entry.gen]
        exact first.stones m _ rfl fresh

/-! ### The tombstones that stand -/

/-- If the handle is a tombstone of the master, then once, and the grant is the one revoked for an orphan. -/
def Stands (m : MasterId) (fate : Grant → GrantFate) (i : GrantIndex) (gen : Fin 64) (g : Grant) (s : State) : Prop :=
  (⟨gen, i⟩ : Handle) ∈ look s.table.tombstones m →
    look s.table.entries i = ⟨gen, some g.orphaned⟩ ∧ s.Calm fate i ∧
      (look s.table.tombstones m).count (⟨gen, i⟩ : Handle) ≤ 1

namespace Stands

variable {gen : Fin 64}

theorem of_table (stands : Stands m fate i gen g s) (table : t.table = s.table) : Stands m fate i gen g t := by
  unfold Stands State.Calm at *
  rw [table]
  exact stands

theorem trySettleAttached (stands : Stands m fate i gen g s) (k : Option CaseId) (attached : Alone fate → k = none) :
    Stands m fate i gen g (s.trySettleAttached k) := by
  intro mem
  rw [State.tombstones_trySettleAttached] at mem ⊢
  obtain ⟨orphan, calm, once⟩ := stands mem
  rcases calm with free | alone
  · have spared : Spares i s (s.trySettleAttached k) := .trySettleAttached k free
    refine ⟨?_, .inl (spared.free free), once⟩
    rcases spared.entry with same | ⟨g', cause, d, j, holds, phase, -⟩
    · exact same.trans orphan
    · rw [orphan] at holds
      cases holds
      cases phase
  · rw [attached alone]
    exact ⟨orphan, .inr alone, once⟩

/-- Another tombstone joins: the handle still stands, or is no tombstone any more. -/
theorem addTombstone {h : Handle} (stands : Stands m fate i gen g s) (other : h.index ≠ i) :
    Stands m fate i gen g (s.addTombstone m h) := by
  have ne : (⟨gen, i⟩ : Handle) ≠ h := fun same => other (by rw [← same])
  rcases s.addTombstone_cases m h with joined | ⟨oldest, rest, stones, freed⟩
  · intro mem
    rw [joined] at mem ⊢
    rw [State.table_modTombstones, look_put_same, List.mem_append, List.mem_singleton] at mem
    obtain ⟨orphan, calm, once⟩ := stands (mem.resolve_right ne)
    refine ⟨orphan, calm, ?_⟩
    rw [State.table_modTombstones, look_put_same, List.count_append, List.count_singleton,
      if_neg (by simpa using ne.symm)]
    exact once
  · have shorter : (look ((s.modTombstones m fun _ => rest).freeGrant oldest).table.tombstones m).Sublist rest := by
      refine (State.tombstones_freeGrant_sublist _ oldest m).trans ?_
      simp
    intro mem
    rw [freed] at mem ⊢
    rw [State.table_modTombstones, look_put_same, List.mem_append, List.mem_singleton] at mem
    have still := shorter.subset (mem.resolve_right ne)
    obtain ⟨orphan, calm, once⟩ := stands (by rw [stones]; exact List.mem_cons_of_mem _ still)
    rw [stones] at once
    have otherOldest : oldest ≠ ⟨gen, i⟩ := by
      rintro rfl
      rw [List.count_cons_self] at once
      have := List.count_pos_iff.mpr still
      omega
    have apart : i ≠ oldest.index ∨ (s.modTombstones m fun _ => rest).grantAt oldest = none := by
      by_cases here : oldest.index = i
      · refine .inr (Spares.grantAt_none _ here fun same => otherOldest ?_)
        rw [same]
        change (⟨(look s.table.entries i).gen, i⟩ : Handle) = _
        rw [orphan]
      · exact .inl (Ne.symm here)
    have entry := (Untouched.freeGrant apart).entry
    have free := (Spares.freeGrant _ apart).free
    refine ⟨entry.trans orphan, calm.imp_left free, ?_⟩
    rw [State.table_modTombstones, look_put_same, List.count_append, List.count_singleton,
      if_neg (by simpa using ne.symm)]
    exact (shorter.count_le _).trans ((List.count_le_count_cons).trans once)

theorem turn (stands : Stands m fate i gen g s) (other : i ≠ j) (only : RevokesOnly fate) :
    Stands m fate i gen g (State.meetFate m fate s j) := by
  by_cases taken : s.takes m fate j = true
  case neg =>
    rw [State.meetFate_of_not_takes only taken]
    exact stands
  obtain ⟨g', holds, own, revoked⟩ := State.takes_iff.mp taken
  have named : s.grantAt (s.handleOf j) = some g' := (s.grantAt_handleOf j).trans holds
  have half := State.takeAway_table named .orphan g'.phase.unitsTo
  have before : Stands m fate i gen g (s.takeAway (s.handleOf j) g' .orphan g'.phase.unitsTo) := by
    unfold Stands State.Calm
    rw [half]
    dsimp only
    rw [look_put_ne _ (show i ≠ (s.handleOf j).index from other)]
    exact stands
  rw [(State.meetFate_of_takes holds taken).1]
  refine trySettleAttached ?_ _ fun alone => alone g' (by rw [revoked]; simp)
  exact (before.addTombstone (Ne.symm other)).of_table (own ▸ (State.revoke_keeps named .orphan _).1)

theorem turns {l : List GrantIndex} (stands : Stands m fate i gen g s) (apart : i ∉ l) (only : RevokesOnly fate) :
    Stands m fate i gen g (l.foldl (State.meetFate m fate) s) := by
  induction l generalizing s with
  | nil => exact stands
  | cons j rest ih =>
    rw [List.mem_cons, not_or] at apart
    exact ih (stands.turn apart.1 only) apart.2

/-- The turn of the entry itself: its grant is a tombstone of the master, the last. -/
theorem ofTurn (holds : (look s.table.entries i).grant = some g) (taken : s.takes m fate i = true)
    (calm : s.Calm fate i) (fresh : s.handleOf i ∉ look s.table.tombstones m) :
    Stands m fate i (look s.table.entries i).gen g (State.meetFate m fate s i) := by
  obtain ⟨turn, own⟩ := State.meetFate_of_takes holds taken
  obtain ⟨g', holds', -, revoked⟩ := State.takes_iff.mp taken
  cases holds.symm.trans holds'
  have named : s.grantAt (s.handleOf i) = some g := (s.grantAt_handleOf i).trans holds
  have half := State.takeAway_table named .orphan g.phase.unitsTo
  rw [turn]
  refine trySettleAttached ?_ _ fun alone => alone g (by rw [revoked]; simp)
  refine of_table ?_ (own ▸ (State.revoke_keeps named .orphan _).1)
  have orphan : look (s.takeAway (s.handleOf i) g .orphan g.phase.unitsTo).table.entries i =
      ⟨(look s.table.entries i).gen, some g.orphaned⟩ := by
    rw [half]
    exact look_put_same _ _ _
  have stones : (s.takeAway (s.handleOf i) g .orphan g.phase.unitsTo).table.tombstones = s.table.tombstones := by
    rw [half]
  have queue : (s.takeAway (s.handleOf i) g .orphan g.phase.unitsTo).table.freeQueue = s.table.freeQueue := by
    rw [half]
  generalize s.takeAway (s.handleOf i) g .orphan g.phase.unitsTo = t at orphan stones queue
  have handle : t.handleOf i = s.handleOf i := by
    rw [State.handleOf, orphan]
    rfl
  obtain ⟨entry, free⟩ := t.addTombstone_spares (m := m) (by rw [handle, stones]; exact fresh) (s.handleOf i)
  obtain ⟨older, list, from_⟩ := t.tombstones_addTombstone m (s.handleOf i)
  intro _
  refine ⟨entry.trans orphan, calm.imp_left fun out => free (queue ▸ out), ?_⟩
  have none_ : s.handleOf i ∉ older := fun mem => fresh (stones ▸ from_.subset mem)
  change List.count (s.handleOf i) _ ≤ 1
  rw [list, List.count_append, List.count_eq_zero.mpr none_, List.count_singleton_self]

/-- R60: a grant that the claim takes, and whose handle was no tombstone of the master, is the one revoked if its handle is
one at the end. -/
theorem ofTurns (only : RevokesOnly fate) (l : List GrantIndex) (once : l.Nodup) (s : State) (mine : i ∈ l)
    (holds : (look s.table.entries i).grant = some g) (taken : s.takes m fate i = true) (calm : s.Calm fate i)
    (fresh : s.handleOf i ∉ look s.table.tombstones m) :
    Stands m fate i (look s.table.entries i).gen g (l.foldl (State.meetFate m fate) s) := by
  induction l generalizing s g with
  | nil => cases mine
  | cons j rest ih =>
    obtain ⟨apart, once⟩ := List.nodup_cons.mp once
    rw [List.foldl_cons]
    by_cases same : i = j
    · subst same
      exact (ofTurn holds taken calm fresh).turns apart only
    · have first := Spares.turn (m := m) same only calm fresh
      have passes : ∃ g', (look (State.meetFate m fate s j).table.entries i).grant = some g' ∧
          g'.orphaned = g.orphaned := by
        rcases first.entry with kept | ⟨g', cause, d, k, holds', -, -, lost⟩
        · exact ⟨g, by rw [kept, holds], rfl⟩
        · cases holds.symm.trans holds'
          exact ⟨{ g with phase := .recalled cause d none }, by rw [lost], rfl⟩
      obtain ⟨g', holds', record⟩ := passes
      have later := ih once (State.meetFate m fate s j) ((List.mem_cons.mp mine).resolve_left same) holds'
        (by rw [State.takes_of_detached only first.entry, taken]) (calm.imp_left first.free) (by
          rw [State.handleOf, first.entry.gen]
          exact first.stones m _ rfl fresh)
      unfold Stands at later ⊢
      rw [first.entry.gen, record] at later
      exact later

end Stands

end Sys2Proof.Machine
end

section
/-! A claim that revokes leaves the master none of the grants it takes (R59, R149, R150); a claim that settles no case
writes nothing but FREE entries and revoked grants, and offers to the master alone. -/

namespace Sys2Proof.Machine

variable {s t u : State} {m : MasterId} {i j : GrantIndex} {g : Grant} {fate : Grant → GrantFate}

/-! ### Claims that settle no case -/

/-- The entry is as it was, or FREE, or its grant is revoked. -/
def Written (i : GrantIndex) (s t : State) : Prop :=
  look t.table.entries i = look s.table.entries i ∨
    ∀ g, (look t.table.entries i).grant = some g → ∃ cause, g.phase = .revoked cause

namespace Written

theorem refl : Written i s s := .inl rfl

theorem of_table (table : t.table = s.table) : Written i s t := .inl (by rw [table])

theorem trans (a : Written i s t) (b : Written i t u) : Written i s u := by
  rcases b with b | b
  · rcases a with a | a
    · exact .inl (b.trans a)
    · exact .inr (by rw [b]; exact a)
  · exact .inr b

theorem freeGrant (s : State) (h : Handle) : Written i s (s.freeGrant h) := by
  by_cases other : i ≠ h.index ∨ s.grantAt h = none
  · exact .inl (Untouched.freeGrant other).entry
  · rw [not_or, not_not] at other
    obtain ⟨here, named⟩ := other
    obtain ⟨g, named⟩ := Option.ne_none_iff_exists'.mp named
    refine .inr fun g' holds => ?_
    rw [here] at holds
    by_cases revoked : ∃ cause, g.phase = .revoked cause
    · obtain ⟨cause, phase⟩ := revoked
      rw [State.freeGrant_of_revoked named phase, table_recycle_entry] at holds
      cases holds
    · rw [State.freeGrant_of_listed named (not_exists.mp revoked), table_recycle_entry] at holds
      cases holds
where
  table_recycle_entry {s : State} {i : GrantIndex} : (look (s.recycle i).table.entries i).grant = none := by
    rw [State.recycle_eq]
    exact congrArg Entry.grant (look_put_same _ _ _)

theorem addTombstone (s : State) (m : MasterId) (h : Handle) : Written i s (s.addTombstone m h) := by
  rcases s.addTombstone_cases m h with joined | ⟨oldest, rest, -, freed⟩
  · rw [joined]
    exact .inl rfl
  · rw [freed]
    have freed := freeGrant (i := i) (s.modTombstones m fun _ => rest) oldest
    exact freed

theorem takeAway {h : Handle} (named : s.grantAt h = some g) (cause : RevokeCause) (dest : UnitsTo) :
    Written i s (s.takeAway h g cause dest) := by
  unfold Written
  rw [State.takeAway_table named]
  dsimp only
  rw [look_put]
  split_ifs
  · refine .inr fun g' holds => ?_
    cases holds
    exact ⟨cause, rfl⟩
  · exact .inl rfl

/-- The half of a revocation that adds the tombstone. -/
theorem revoke_half {h : Handle} (named : s.grantAt h = some g) (cause : RevokeCause) (dest : UnitsTo) :
    Written i (s.takeAway h g cause dest) (s.revoke h cause dest) :=
  (addTombstone _ _ _).trans (of_table (State.revoke_keeps named cause dest).1)

theorem turn (only : RevokesOnly fate) (alone : Alone fate) (m : MasterId) (s : State) (j : GrantIndex) :
    Written i s (State.meetFate m fate s j) := by
  by_cases taken : s.takes m fate j = true
  · obtain ⟨g, holds, own, revoked⟩ := State.takes_iff.mp taken
    have named : s.grantAt (s.handleOf j) = some g := (s.grantAt_handleOf j).trans holds
    rw [(State.meetFate_of_takes holds taken).1, alone g (by rw [revoked]; simp)]
    exact (takeAway named .orphan _).trans (revoke_half named .orphan _)
  · rw [State.meetFate_of_not_takes only taken]
    exact refl

theorem turns (only : RevokesOnly fate) (alone : Alone fate) (m : MasterId) (l : List GrantIndex) (s : State) :
    Written i s (l.foldl (State.meetFate m fate) s) := by
  induction l generalizing s with
  | nil => exact refl
  | cons j rest ih => exact (turn only alone m s j).trans (ih _)

/-- An entry that such a claim only might have detached is as it was. -/
theorem entry (written : Written i s t) (kept : s.KeptButDetached t i) :
    look t.table.entries i = look s.table.entries i := by
  rcases kept with same | ⟨g, cause, d, j, -, -, -, lost⟩
  · exact same
  · rcases written with same | revoked
    · exact same
    · obtain ⟨why, phase⟩ := revoked _ (by rw [lost])
      cases phase

end Written

namespace State

theorem ports_freeGrant (s : State) (h : Handle) : (s.freeGrant h).ports = s.ports := by
  cases named : s.grantAt h with
  | none => rw [freeGrant, named]
  | some g =>
    by_cases revoked : ∃ cause, g.phase = .revoked cause
    · obtain ⟨cause, phase⟩ := revoked
      rw [freeGrant_of_revoked named phase, recycle_eq]
      rfl
    · rw [freeGrant_of_listed named (not_exists.mp revoked), recycle_eq]
      obtain ⟨given, give, -⟩ :=
        (s.unlist g.carrier h).giveUnits_eq g.carrier g.units g.phase.unitsTo
      obtain ⟨marked, mark, -⟩ :=
        ((s.unlist g.carrier h).giveUnits g.carrier g.units g.phase.unitsTo).markAttached_eq h .released g.phase.attached
      rw [mark, give]
      rfl

theorem ports_addTombstone (s : State) (m : MasterId) (h : Handle) : (s.addTombstone m h).ports = s.ports := by
  rcases s.addTombstone_cases m h with joined | ⟨oldest, rest, -, freed⟩
  · rw [joined]
    rfl
  · rw [freed, ports_modTombstones, ports_freeGrant]
    rfl

/-- A revocation offers to the grant's owner alone. -/
theorem port_revoke {h : Handle} {j : MasterId} (named : s.grantAt h = some g) (other : j ≠ g.owner)
    (cause : RevokeCause) (dest : UnitsTo) : (s.revoke h cause dest).port j = s.port j := by
  obtain ⟨_, taken, -⟩ := takeAway_eq named cause dest
  have offered := port_offer_ne ((s.takeAway h g cause dest).addTombstone g.owner h) other (.revokedNotice h cause)
  rw [revoke_of_grantAt named]
  refine offered.trans ?_
  rw [port, ports_addTombstone, taken]
  rfl

/-- A claim that settles no case offers to the master alone. -/
theorem port_turns {j : MasterId} (other : j ≠ m) (only : RevokesOnly fate) (alone : Alone fate) (l : List GrantIndex)
    (s : State) : (l.foldl (meetFate m fate) s).port j = s.port j := by
  induction l generalizing s with
  | nil => rfl
  | cons i rest ih =>
    refine (ih _).trans ?_
    by_cases taken : s.takes m fate i = true
    · obtain ⟨g, holds, own, revoked⟩ := takes_iff.mp taken
      have named : s.grantAt (s.handleOf i) = some g := (s.grantAt_handleOf i).trans holds
      rw [(meetFate_of_takes holds taken).1, alone g (by rw [revoked]; simp)]
      exact port_revoke named (by rw [own]; exact other) .orphan _
    · rw [meetFate_of_not_takes only taken]

end State

/-! ### What is left to the master -/

/-- The fate keeps a revoked grant, and what follows a grant that it keeps. -/
structure Settles (fate : Grant → GrantFate) : Prop where
  revoked : ∀ g cause, g.phase = .revoked cause → fate g = .kept
  follows : ∀ g g₀ : Grant, g.Follows g₀ → fate g₀ = .kept → fate g = .kept

/-- A grant of the master in the entry is one that the fate keeps. -/
def Done (m : MasterId) (fate : Grant → GrantFate) (i : GrantIndex) (s : State) : Prop :=
  ∀ g, (look s.table.entries i).grant = some g → g.owner = m → fate g = .kept

/-- The claim creates no grant of the master: the master has no case, or no case settles. -/
def Barren (m : MasterId) (fate : Grant → GrantFate) (s : State) : Prop :=
  (∀ tag k, ¬s.CaseUnder m tag k) ∨ Alone fate

namespace Done

theorem of_proceeds (done : Done m fate i s)
    (follows : ∀ g g₀ : Grant, g.Follows g₀ → fate g₀ = .kept → fate g = .kept) (none_ : ∀ tag k, ¬s.CaseUnder m tag k)
    (goes : Proceeds s t) : Done m fate i t := by
  intro g holds own
  rcases goes.grants i g holds with ⟨tag, k, mine⟩ | ⟨g₀, had, after⟩
  · exact absurd (own ▸ mine) (none_ tag k)
  · exact follows g g₀ after (done g₀ had (after.owner ▸ own))

theorem of_written (done : Done m fate i s) (settles : Settles fate) (written : Written i s t) : Done m fate i t := by
  intro g holds own
  rcases written with same | revoked
  · exact done g (by rw [← same, holds]) own
  · obtain ⟨cause, phase⟩ := revoked g holds
    exact settles.revoked g cause phase

theorem turn (done : Done m fate i s) (settles : Settles fate) (only : RevokesOnly fate) (barren : Barren m fate s) :
    Done m fate i (State.meetFate m fate s j) := by
  rcases barren with none_ | alone
  · exact done.of_proceeds settles.follows none_ (.meetFate m fate s j)
  · exact done.of_written settles (.turn only alone m s j)

/-- The turn of the entry itself. -/
theorem ofTurn (settles : Settles fate) (only : RevokesOnly fate) (barren : Barren m fate s) :
    Done m fate i (State.meetFate m fate s i) := by
  by_cases taken : s.takes m fate i = true
  · obtain ⟨g, holds, own, revoked⟩ := State.takes_iff.mp taken
    have named : s.grantAt (s.handleOf i) = some g := (s.grantAt_handleOf i).trans holds
    have half : Done m fate i (s.takeAway (s.handleOf i) g .orphan g.phase.unitsTo) := by
      intro g' holds' _
      rw [State.takeAway_table named] at holds'
      change Entry.grant (look (put _ i _) i) = _ at holds'
      rw [look_put_same] at holds'
      cases holds'
      exact settles.revoked _ .orphan rfl
    have away := Proceeds.takeAway named .orphan g.phase.unitsTo
    rw [(State.meetFate_of_takes holds taken).1]
    rcases barren with none_ | alone
    · refine half.of_proceeds settles.follows (fun tag k mine => none_ tag k (away.caseUnder mine)) ?_
      refine Proceeds.trans ?_ (.trySettleAttached _ _)
      rw [State.revoke_of_grantAt named]
      exact ((Proceeds.addTombstone _ _ _).trans (.offer _ _ _)).trans (.countRevoked _ _)
    · rw [alone g (by rw [revoked]; simp)]
      exact half.of_written settles (.revoke_half named .orphan _)
  · rw [State.meetFate_of_not_takes only taken]
    intro g holds own
    cases f : fate g with
    | kept => rfl
    | freed => exact absurd f (only.never g)
    | revokedOrphan => exact absurd (State.takes_iff.mpr ⟨g, holds, own, f⟩) taken

/-- R59: the claim leaves the master none of the grants that it takes. -/
theorem turns (settles : Settles fate) (only : RevokesOnly fate) (l : List GrantIndex) (s : State)
    (barren : Barren m fate s) (done : i ∉ l → Done m fate i s) :
    Done m fate i (l.foldl (State.meetFate m fate) s) := by
  induction l generalizing s with
  | nil => exact done List.not_mem_nil
  | cons j rest ih =>
    have goes := Proceeds.meetFate m fate s j
    refine ih _ (barren.imp_left fun none_ tag k mine => none_ tag k (goes.caseUnder mine)) fun out => ?_
    by_cases here : i = j
    · subst here
      exact ofTurn settles only barren
    · exact (done (by simp [here, out])).turn settles only barren

theorem linkClaim (settles : Settles fate) (only : RevokesOnly fate) (barren : Barren m fate s) (i : GrantIndex) :
    Done m fate i (s.linkClaim m fate) :=
  turns settles only _ s barren fun out g holds own => absurd (State.mem_entriesOf.mpr ⟨g, holds, own⟩) out

end Done

end Sys2Proof.Machine
end

section
/-! What the orphan stages reclaim (R59, R60, R149, R150). -/

namespace Sys2Proof.Machine

variable {s t u : State} {m : MasterId} {i : GrantIndex} {g : Grant} {fate : Grant → GrantFate}

/-! ### The fates at the two stages -/

theorem kept_fateAtStage1 : fateAtStage1 g = .kept ↔ (∃ cause, g.phase = .revoked cause) ∨ g.level = .e ∧ g.phase = .active := by
  unfold fateAtStage1
  cases phase : g.phase with
  | held d => simp
  | recalled cause d j => simp
  | revoked cause => simp
  | active => by_cases e : g.level = .e <;> simp [e]

theorem revokesOnly_fateAtStage1 : RevokesOnly fateAtStage1 := by
  refine ⟨fun g freed => ?_, fun g cause d j phase => ?_⟩
  · unfold fateAtStage1 at freed
    cases phase : g.phase with
    | active =>
      simp only [phase] at freed
      split_ifs at freed
    | held d => simp [phase] at freed
    | recalled cause d j => simp [phase] at freed
    | revoked cause => simp [phase] at freed
  · simp only [fateAtStage1, phase]

theorem settles_fateAtStage1 : Settles fateAtStage1 := by
  refine ⟨fun g cause phase => kept_fateAtStage1.mpr (.inl ⟨cause, phase⟩), fun g g₀ follows kept => ?_⟩
  rw [kept_fateAtStage1] at kept ⊢
  rcases follows.phase with same | revoked | ⟨-, cause, d, j, recalled⟩
  · rw [same, follows.level]
    exact kept
  · exact .inl revoked
  · rcases kept with ⟨why, revoked⟩ | ⟨-, active⟩
    · rw [recalled] at revoked
      cases revoked
    · rw [recalled] at active
      cases active

theorem taken_fateAtStage2 :
    fateAtStage2 g = .revokedOrphan ↔ g.level = .e ∧ (g.phase = .active ∨ ∃ d, g.phase = .held d) := by
  unfold fateAtStage2
  cases phase : g.phase with
  | held d => by_cases e : g.level = .e <;> simp [e]
  | active => by_cases e : g.level = .e <;> simp [e]
  | recalled cause d j => simp
  | revoked cause => simp

theorem not_freed_fateAtStage2 (g : Grant) : fateAtStage2 g ≠ .freed := by
  unfold fateAtStage2
  cases phase : g.phase with
  | held d => by_cases e : g.level = .e <;> simp [e]
  | active => by_cases e : g.level = .e <;> simp [e]
  | recalled cause d j => simp
  | revoked cause => simp

theorem revokesOnly_fateAtStage2 : RevokesOnly fateAtStage2 :=
  ⟨not_freed_fateAtStage2, fun g cause d j phase => by simp only [fateAtStage2, phase]⟩

theorem revoked_fateAtStage2 (gone : fateAtStage2 g ≠ .kept) : fateAtStage2 g = .revokedOrphan := by
  cases f : fateAtStage2 g with
  | kept => exact absurd f gone
  | freed => exact absurd f (not_freed_fateAtStage2 g)
  | revokedOrphan => rfl

theorem alone_fateAtStage2 : Alone fateAtStage2 := by
  intro g gone
  obtain ⟨-, active | ⟨d, held⟩⟩ := taken_fateAtStage2.mp (revoked_fateAtStage2 gone)
  · rw [active]
    rfl
  · rw [held]
    rfl

theorem settles_fateAtStage2 : Settles fateAtStage2 := by
  have keeps (g : Grant) (other : ¬(g.phase = .active ∨ ∃ d, g.phase = .held d)) : fateAtStage2 g = .kept :=
    Classical.byContradiction fun gone => other (taken_fateAtStage2.mp (revoked_fateAtStage2 gone)).2
  refine ⟨fun g cause phase => keeps g (by simp [phase]), fun g g₀ follows kept => ?_⟩
  rcases follows.phase with same | ⟨cause, revoked⟩ | ⟨⟨cause, d, j, recalled⟩, -⟩
  · refine Classical.byContradiction fun gone => ?_
    have taken := taken_fateAtStage2.mp (revoked_fateAtStage2 gone)
    rw [same, follows.level] at taken
    rw [taken_fateAtStage2.mpr taken] at kept
    cases kept
  · exact keeps g (by simp [revoked])
  · exact keeps g (by simp [recalled])

/-! ### The pending work that ends before -/

theorem Proceeds.dropPending (s : State) (m : MasterId) : Proceeds s (s.dropPending m) := by
  have flushed : Proceeds s (s.flushWaiting m) := by
    refine ⟨fun _ => rfl, fun _ y h => ⟨y, h, rfl, le_rfl⟩, fun j tag waits => .inl ?_, List.Subset.refl _,
      fun _ g h => .inr ⟨g, h, .rfl⟩⟩
    have smaller (v : Vector (List WaitEntry) 4) (w : WaitEntry) (mem : w ∈ look (put v m []) j) : w ∈ look v j := by
      rw [look_put] at mem
      split_ifs at mem
      · cases mem
      · exact mem
    rcases waits with ⟨w, mem, names⟩ | ⟨w, mem, names⟩ | ⟨w, mem, names⟩
    · exact .inl ⟨w, List.mem_of_mem_filter mem, names⟩
    · exact .inr (.inl ⟨w, smaller _ w mem, names⟩)
    · exact .inr (.inr ⟨w, smaller _ w mem, names⟩)
  refine flushed.trans (Proceeds.foldl (fun t k => ?_) _ _)
  cases collecting : t.caseAt k with
  | none =>
    rw [State.abandon, collecting]
    exact .refl
  | some x =>
    rw [State.abandon, collecting]
    exact (Proceeds.endCase t k x).trans (.returnUnits _ _ _)

theorem Passes.dropPending (s : State) (m : MasterId) (i : GrantIndex) : Passes i s (s.dropPending m) := by
  have dropped := s.dropPending_eq m
  refine .of_spares (.dropPending s m) fun h _ => ⟨fun free => ?_, s.gen_dropPending m _, fun c => ?_⟩
  · rw [dropped]
    exact free
  · rw [State.carrier, dropped]
    rfl

theorem State.stones_dropPending (s : State) (m : MasterId) :
    (s.dropPending m).table.tombstones = s.table.tombstones := by
  rw [dropPending_eq]

/-! ### What a stage reclaims -/

/-- The claim has room for the tombstones of all grants that it takes. -/
def HasRoom (m : MasterId) (fate : Grant → GrantFate) (s : State) : Prop :=
  (look s.table.tombstones m).length + ((List.finRange 1024).filter (s.takes m fate)).length ≤ 16

/-- What the end of the pending work, if it ends, and a fate that revokes make of the grants they take, and of the rest. -/
structure Reclaims (m : MasterId) (fate : Grant → GrantFate) (s u : State) : Prop where
  record : ∀ i g, (look s.table.entries i).grant = some g → s.takes m fate i = true →
    HasRoom m fate s ∨ (s.handleOf i ∉ look s.table.tombstones m ∧ s.handleOf i ∈ look u.table.tombstones m) →
    look u.table.entries i = ⟨(look s.table.entries i).gen, some g.orphaned⟩
  stones : HasRoom m fate s → look u.table.tombstones m =
    look s.table.tombstones m ++ ((List.finRange 1024).filter (s.takes m fate)).map s.handleOf
  left : HasRoom m fate s → ∀ i g, (look s.table.entries i).grant = some g → s.takes m fate i = true → s.UnitsLeft u i g
  kept : ∀ i g, (look s.table.entries i).grant = some g → ¬s.takes m fate i = true →
    s.handleOf i ∉ look s.table.tombstones m ∨ HasRoom m fate s → s.KeptButDetached u i

theorem reclaims (only : RevokesOnly fate) (passes : ∀ i, Passes i s t) (goes : Proceeds s t)
    (stones : t.table.tombstones = s.table.tombstones)
    (calm : ∀ i g, (look s.table.entries i).grant = some g → s.Calm fate i) :
    Reclaims m fate s (t.linkClaim m fate) := by
  have takes : t.takes m fate = s.takes m fate := funext fun i => State.takes_of_detached only (passes i).entry
  have handles : t.handleOf = s.handleOf := funext fun i => (passes i).handleOf
  have mine (i : GrantIndex) (taken : s.takes m fate i = true) : i ∈ t.entriesOf m := by
    obtain ⟨g, holds, own, -⟩ := State.takes_iff.mp (takes ▸ taken)
    exact State.mem_entriesOf.mpr ⟨g, holds, own⟩
  have gone : (t.entriesOf m).filter (s.takes m fate) = (List.finRange 1024).filter (s.takes m fate) :=
    State.filter_entriesOf mine
  have once : (t.entriesOf m).Nodup := (allIndexes_eq ▸ List.nodup_finRange 1024).filter _
  have calmAt (i : GrantIndex) (g : Grant) (holds : (look s.table.entries i).grant = some g) : t.Calm fate i :=
    (calm i g holds).of_passes (passes i)
  have took (room : HasRoom m fate s) : TookWithRoom m fate (t.entriesOf m) t (t.linkClaim m fate) := by
    refine tookWithRoom only _ once t (fun j mem => ?_) (by rw [takes, stones, gone]; exact room)
    obtain ⟨g', holds', -⟩ := State.mem_entriesOf.mp mem
    rcases (passes j).entry with same | ⟨g, _, _, _, holds, -⟩
    · exact calmAt j g' (by rw [← same, holds'])
    · exact calmAt j g holds
  have goesOn := Proceeds.linkClaim t m fate
  refine ⟨fun i g holds taken which => ?_, fun room => ?_, fun room i g holds taken => ?_,
    fun i g holds stays which => ?_⟩
  · obtain ⟨g', holds', record⟩ := (passes i).grant holds
    rw [← record, ← (passes i).entry.gen]
    rcases which with room | ⟨fresh, stone⟩
    · exact ((took room).taken i (mine i taken) (takes ▸ taken) g' holds').1
    · have stands : Stands m fate i (look t.table.entries i).gen g' (t.linkClaim m fate) :=
        .ofTurns only _ once t (mine i taken) holds' (takes ▸ taken) (calmAt i g holds)
          (by rw [handles, stones]; exact fresh)
      generalize t.linkClaim m fate = u at stands stone ⊢
      rw [← handles] at stone
      exact (stands stone).1
  · rw [(took room).stones, takes, gone, stones, handles]
  · obtain ⟨g', holds', -⟩ := (passes i).grant holds
    exact (passes i).unitsLeft goes goesOn holds holds' ((took room).taken i (mine i taken) (takes ▸ taken) g' holds').2
  · rcases which with fresh | room
    · have spared : Spares i t (t.linkClaim m fate) :=
        .turns only _ t (fun _ => takes ▸ stays) (calmAt i g holds) (by rw [handles, stones]; exact fresh)
      exact (passes i).entry.trans spared.entry spared.cases
    · have passed := (took room).passes i (fun _ => takes ▸ stays) (calmAt i g holds)
      exact (passes i).entry.trans passed.entry passed.cases

end Sys2Proof.Machine
end

section
/-! The expiries of the silence and orphan timers (R148, R149, R150, R156). -/

namespace Sys2Proof.Machine

namespace State

variable {s : State} {m : MasterId}

theorem expireSilence_of_due (up : (s.port m).link = .up) {d : Time} (runs : (s.port m).silence = some d)
    (due : d ≤ s.now) :
    s.expireSilence m = s.modPort m fun p =>
      { p with link := .stale, silence := none, orphan := some (s.now + (s.master m).orphanDelay, .one) } := by
  rw [expireSilence, up, runs]
  exact if_pos due

theorem expireSilence_of_ahead (h : (s.port m).link ≠ .up ∨ ∀ d, (s.port m).silence = some d → s.now < d) :
    s.expireSilence m = s := by
  unfold expireSilence
  split
  · next d up runs => exact if_neg (Nat.not_le.mpr (h.elim (absurd up) fun ahead => ahead d runs))
  · rfl

theorem expireOrphan1_of_due (stale : (s.port m).link = .stale) {d : Time}
    (runs : (s.port m).orphan = some (d, .one)) (due : d ≤ s.now) : s.expireOrphan1 m = s.orphanFirst m := by
  rw [expireOrphan1, stale, runs]
  exact if_pos due

theorem expireOrphan1_of_ahead (h : (s.port m).link ≠ .stale ∨ ∀ d, (s.port m).orphan = some (d, .one) → s.now < d) :
    s.expireOrphan1 m = s := by
  unfold expireOrphan1
  split
  · next d stale runs => exact if_neg (Nat.not_le.mpr (h.elim (absurd stale) fun ahead => ahead d runs))
  · rfl

theorem expireOrphan2_of_due (orphaned : (s.port m).link = .orphaned) {d : Time}
    (runs : (s.port m).orphan = some (d, .two)) (due : d ≤ s.now) : s.expireOrphan2 m = s.orphanSecond m := by
  rw [expireOrphan2, orphaned, runs]
  exact if_pos due

theorem expireOrphan2_of_ahead
    (h : (s.port m).link ≠ .orphaned ∨ ∀ d, (s.port m).orphan = some (d, .two) → s.now < d) :
    s.expireOrphan2 m = s := by
  unfold expireOrphan2
  split
  · next d orphaned runs => exact if_neg (Nat.not_le.mpr (h.elim (absurd orphaned) fun ahead => ahead d runs))
  · rfl

theorem expireRadioSilence_of_due (up : s.radio.link = .up) {d : Time} (runs : s.radio.silence = some d)
    (due : d ≤ s.now) :
    s.expireRadioSilence =
      ({ s with radio := { s.radio with link := .stale, silence := none } }).offerAll .radioStale := by
  rw [expireRadioSilence, up, runs]
  exact if_pos due

theorem expireRadioSilence_of_ahead (h : s.radio.link ≠ .up ∨ ∀ d, s.radio.silence = some d → s.now < d) :
    s.expireRadioSilence = s := by
  unfold expireRadioSilence
  split
  · next d up runs => exact if_neg (Nat.not_le.mpr (h.elim (absurd up) fun ahead => ahead d runs))
  · rfl

end State

variable {s t u : State} {m : MasterId} {fate : Grant → GrantFate}

theorem Port.eq_of_unqueued {p q : Port} (same : q.unqueued = p.unqueued) (overrun : q.overrun = p.overrun) :
    q = { p with queue := q.queue } := by
  have fields : { q with queue := ([] : List OutFrame), overrun := false } =
      { p with queue := ([] : List OutFrame), overrun := false } := same
  cases p
  cases q
  simp_all

/-- What a claim leaves of the port of a master whose link takes no frames. -/
theorem Works.port_of_deaf (works : Works s t) (goes : Proceeds s t) (deaf : ¬s.Listens m) :
    t.port m = { s.port m with queue := (t.port m).queue } :=
  Port.eq_of_unqueued (goes.ports m) ((works.overrun m).2 deaf)

/-- What a stage reclaims, in the words of the statement. -/
theorem Reclaims.reclaimed (rec : Reclaims m fate s u) {taken : GrantIndex → Bool} (takes : s.takes m fate = taken)
    {p : Grant → Bool} (untaken : ∀ g, p g = false → fate g ≠ .revokedOrphan)
    (same : ∀ i g, (look s.table.entries i).grant = some g → g.owner = m → p g = false → s.KeptButDetached u i →
      look u.table.entries i = look s.table.entries i) :
    let stones := look s.table.tombstones m
    let gone := (List.finRange 1024).filter taken
    let stonesAfter := look u.table.tombstones m
    (∀ i g, (look s.table.entries i).grant = some g → taken i = true →
      stones.length + gone.length ≤ 16 ∨ (s.handleOf i ∉ stones ∧ s.handleOf i ∈ stonesAfter) →
      look u.table.entries i =
        ⟨(look s.table.entries i).gen, some { g with units := 0, phase := .revoked .orphan }⟩) ∧
    (stones.length + gone.length ≤ 16 → stonesAfter = stones ++ gone.map s.handleOf ∧
      ∀ i g, (look s.table.entries i).grant = some g → taken i = true → s.UnitsLeft u i g) ∧
    (∀ i g, (look s.table.entries i).grant = some g → g.owner = m → p g = false →
      s.handleOf i ∉ stones ∨ stones.length + gone.length ≤ 16 →
      look u.table.entries i = look s.table.entries i) := by
  subst takes
  refine ⟨rec.record, fun room => ⟨rec.stones room, rec.left room⟩, fun i g holds own out which => ?_⟩
  refine same i g holds own out (rec.kept i g holds (fun taken => ?_) which)
  obtain ⟨g', holds', -, revoked⟩ := State.takes_iff.mp taken
  cases holds.symm.trans holds'
  exact untaken g out revoked

namespace State

theorem takes_eq {p : Grant → Bool} (spec : ∀ g, fate g = .revokedOrphan ↔ p g = true) {taken : GrantIndex → Bool}
    (free : ∀ i, (look s.table.entries i).grant = none → taken i = false)
    (held : ∀ i g, (look s.table.entries i).grant = some g → taken i = (decide (g.owner = m) && p g)) :
    s.takes m fate = taken := by
  funext i
  cases holds : (look s.table.entries i).grant with
  | none => rw [free i holds, takes, holds, Option.any_none]
  | some g =>
    rw [held i g holds, takes, holds, Option.any_some]
    exact congrArg _ (Bool.eq_iff_iff.mpr (by simpa using spec g))

theorem not_takes_of_other {i : GrantIndex} {g : Grant} (holds : (look s.table.entries i).grant = some g)
    (other : g.owner ≠ m) : ¬s.takes m fate i = true := fun taken => by
  obtain ⟨g', holds', own, -⟩ := takes_iff.mp taken
  cases holds.symm.trans holds'
  exact other own

theorem calm_of_agrees (agrees : s.FreeQueueAgrees) (i : GrantIndex) (g : Grant)
    (holds : (look s.table.entries i).grant = some g) : s.Calm fate i := by
  refine .inl fun mem => ?_
  have free := (agrees.2 i).mp mem
  rw [holds] at free
  cases free

/-- The link of the master becomes ORPHANED, and no frame waits on it any more (R149). -/
def lostLink (s : State) (m : MasterId) : State :=
  s.modPort m fun p => { p with link := .orphaned, rxBuffer := [] }

/-- Stage 1, the link being ORPHANED already: what is reclaimed. -/
theorem reclaims_stage1 (s : State) (m : MasterId) (f : Port → Port) (agrees : s.FreeQueueAgrees) :
    Reclaims m fateAtStage1 s (((s.modPort m f).dropPending m).linkClaim m fateAtStage1) := by
  obtain ⟨record, stones, left, kept⟩ := reclaims (m := m) revokesOnly_fateAtStage1
    (Passes.dropPending (s.modPort m f) m) (.dropPending (s.modPort m f) m) (stones_dropPending _ m)
    (calm_of_agrees agrees)
  exact ⟨record, stones, left, kept⟩

end State

/-- Settles O45. -/
theorem linkTimerExpiries : Obligations.LinkTimerExpiries := by
  intro m s p handle taken stones reclaimed atFirst atSecond
  refine ⟨fun d up runs due => ?_, fun h => ?_, fun d stale runs due age => ?first, fun h => ?_,
    fun d orphaned runs due => ?second, fun h => ?_, fun d up runs due => ?_, fun h => ?_⟩
  · exact congrArg Host.Outcome.next (State.expireSilence_of_due up runs due)
  · exact congrArg Host.Outcome.next (State.expireSilence_of_ahead h)
  case first =>
    intro second lost u
    have served : exec (.orphanStage1 m) s = .next u.finish :=
      congrArg Host.Outcome.next (State.expireOrphan1_of_due stale runs due)
    have none_ := State.nothingPending_dropPending (s := s.lostLink m) age m
    have goes := Proceeds.linkClaim lost m fateAtStage1
    have goes₁ := (Proceeds.dropPending (s.lostLink m) m).trans goes
    have works := (State.works_dropPending (s.lostLink m) m).trans
      (State.works_linkClaim lost m fateAtStage1)
    have done := Done.linkClaim settles_fateAtStage1 revokesOnly_fateAtStage1 (s := lost) (m := m)
      (.inl fun tag => (none_ tag).2)
    have spec (g : Grant) : fateAtStage1 g = .revokedOrphan ↔ atFirst g = true := by
      cases phase : g.phase <;> simp [fateAtStage1, atFirst, phase]
    have takes : s.takes m fateAtStage1 = taken atFirst := State.takes_eq spec
      (fun i free => by simp only [taken, free]) (fun i g holds => by simp only [taken, holds])
    have claims (agrees : s.FreeQueueAgrees) : Reclaims m fateAtStage1 s (lost.linkClaim m fateAtStage1) :=
      s.reclaims_stage1 m _ agrees
    have u_def : u = (lost.linkClaim m fateAtStage1).modPort m fun p => { p with orphan := second } := rfl
    clear_value u
    generalize lost.linkClaim m fateAtStage1 = v at *
    subst u_def
    have same : (v.modPort m fun p => { p with orphan := second }).port m = { v.port m with orphan := second } :=
      State.port_modPort_same _ _ _
    have at_ : (s.lostLink m).port m =
        { p with link := .orphaned, rxBuffer := [] } := State.port_modPort_same _ _ _
    have elsewhere (j : MasterId) (other : j ≠ m) : (s.lostLink m).port j = s.port j := State.port_modPort_ne _ other _
    have deaf : ¬(s.lostLink m).Listens m := by
      rw [State.Listens, at_]
      simp
    have was := works.port_of_deaf goes₁ deaf
    have grows := works.queue
    rw [at_] at was
    refine ⟨served, ?port, fun j => ?others, fun tag => ⟨fun waits => ?_, fun k mine => ?_⟩,
      fun i g holds own => ?_, fun agrees => ⟨?reclaimed, fun i g holds other fresh => ?_⟩⟩
    case port =>
      rw [same, was]
    case others =>
      by_cases here : j = m
      · subst here
        have grown := grows j
        rw [at_] at grown
        rw [same]
        exact ⟨grown, fun other => absurd rfl other⟩
      · have grown := grows j
        rw [elsewhere j here] at grown
        rw [State.port_modPort_ne _ here]
        exact ⟨grown, fun _ => (goes₁.ports j).trans (congrArg Port.unqueued (elsewhere j here))⟩
    · rcases goes.waits m tag waits with waited | ⟨k, mine⟩
      · exact (none_ tag).1 waited
      · exact (none_ tag).2 k mine
    · exact (none_ tag).2 k (goes.caseUnder mine)
    · exact kept_fateAtStage1.mp (done i g holds own)
    case reclaimed =>
      refine (claims agrees).reclaimed takes (p := atFirst) (fun g out revoked => ?_) fun i g holds own out kept => ?_
      · rw [(spec g).mp revoked] at out
        cases out
      · rcases kept with kept | ⟨g', cause, d, j, holds', phase, -⟩
        · exact kept
        · cases holds.symm.trans holds'
          simp only [atFirst, phase] at out
          cases out
    · exact (claims agrees).kept i g holds (State.not_takes_of_other holds other) (.inl fresh)
  · exact congrArg Host.Outcome.next (State.expireOrphan1_of_ahead h)
  case second =>
    intro u
    have served : exec (.orphanStage2 m) s = .next u.finish :=
      congrArg Host.Outcome.next (State.expireOrphan2_of_due orphaned runs due)
    have goes := Proceeds.linkClaim s m fateAtStage2
    have works := State.works_linkClaim s m fateAtStage2
    have done := Done.linkClaim (s := s) (m := m) settles_fateAtStage2 revokesOnly_fateAtStage2 (.inr alone_fateAtStage2)
    have written (i : GrantIndex) : Written i s (s.linkClaim m fateAtStage2) :=
      .turns revokesOnly_fateAtStage2 alone_fateAtStage2 m _ s
    have others (j : MasterId) (other : j ≠ m) : (s.linkClaim m fateAtStage2).port j = s.port j :=
      State.port_turns other revokesOnly_fateAtStage2 alone_fateAtStage2 _ s
    have claims : Reclaims m fateAtStage2 s (s.linkClaim m fateAtStage2) :=
      reclaims revokesOnly_fateAtStage2 (fun _ => .refl) .refl rfl fun _ _ _ => .inr alone_fateAtStage2
    have spec (g : Grant) : fateAtStage2 g = .revokedOrphan ↔ atSecond g = true := by
      cases phase : g.phase <;> simp [fateAtStage2, atSecond, phase]
    have takes : s.takes m fateAtStage2 = taken atSecond := State.takes_eq spec
      (fun i free => by simp only [taken, free]) (fun i g holds => by simp only [taken, holds])
    have u_def : u = (s.linkClaim m fateAtStage2).modPort m fun p => { p with orphan := none } := rfl
    clear_value u
    generalize s.linkClaim m fateAtStage2 = v at *
    subst u_def
    have same : (v.modPort m fun p => { p with orphan := none }).port m = { v.port m with orphan := none } :=
      State.port_modPort_same _ _ _
    have deaf : ¬s.Listens m := by
      rw [State.Listens, orphaned]
      simp
    have was := works.port_of_deaf goes deaf
    have grows := works.queue m
    refine ⟨served, ?port, ?queue, fun j other => (State.port_modPort_ne _ other _).trans (others j other),
      fun i g holds own e => ?none, ?reclaimed, fun i g holds other fresh => ?_⟩
    case port => rw [same, was]
    case queue =>
      rw [same]
      exact grows
    case none =>
      have kept := done i g holds own
      have not_taken : ¬(g.phase = .active ∨ ∃ d, g.phase = .held d) := fun phase => by
        rw [taken_fateAtStage2.mpr ⟨e, phase⟩] at kept
        cases kept
      exact ⟨fun active => not_taken (.inl active), fun d held => not_taken (.inr ⟨d, held⟩)⟩
    case reclaimed =>
      refine claims.reclaimed takes (p := atSecond) (fun g out revoked => ?_) fun i g _ _ _ kept => (written i).entry kept
      rw [(spec g).mp revoked] at out
      cases out
    · exact (written i).entry (claims.kept i g holds (State.not_takes_of_other holds other) (.inl fresh))
  · exact congrArg Host.Outcome.next (State.expireOrphan2_of_ahead h)
  · exact congrArg Host.Outcome.next (State.expireRadioSilence_of_due up runs due)
  · exact congrArg Host.Outcome.next (State.expireRadioSilence_of_ahead h)

end Sys2Proof.Machine
end

section
/-! The claim of a LINK_OPEN that forgets: every grant of the master is freed (R58, R59, R146). -/

namespace Sys2Proof.Machine

variable {s t u : State} {m : MasterId} {i j : GrantIndex} {g : Grant} {fate : Grant → GrantFate}

/-! ### One turn -/

theorem State.entry_freeGrant (holds : (look s.table.entries i).grant = some g) :
    look (s.freeGrant (s.handleOf i)).table.entries i = ⟨(look s.table.entries i).gen + 1, none⟩ := by
  have named : s.grantAt (s.handleOf i) = some g := (s.grantAt_handleOf i).trans holds
  by_cases revoked : ∃ cause, g.phase = .revoked cause
  · obtain ⟨cause, phase⟩ := revoked
    rw [freeGrant_of_revoked named phase, table_recycle]
    exact look_put_same _ _ _
  · rw [freeGrant_of_listed named (not_exists.mp revoked), table_recycle, table_markAttached, table_giveUnits,
      table_unlist]
    exact look_put_same _ _ _

/-- A turn that frees the grant: its generation steps, and its units are where they go. -/
theorem freedTurn (all : ∀ g, fate g = .freed) (holds : (look s.table.entries i).grant = some g) (own : g.owner = m) :
    (look (State.meetFate m fate s i).table.entries i).gen = (look s.table.entries i).gen + 1 ∧
      s.UnitsLeft (State.meetFate m fate s i) i g := by
  have stepped : ∀ n : Fin 64, n + 1 ≠ n := by decide
  have entry := State.entry_freeGrant holds
  have left := State.UnitsLeft.freeGrant holds
  rw [State.meetFate_of_freed holds own (all g)]
  generalize s.freeGrant (s.handleOf i) = t at entry left
  have other : t.NotMade (s.handleOf i) := .inr (by
    change (look t.table.entries i).gen ≠ (look s.table.entries i).gen
    rw [entry]
    exact stepped _)
  have settled := State.SamePlaces.trySettleAttached other g.phase.attached
  have gen := settled.gen
  change (look (t.trySettleAttached g.phase.attached).table.entries i).gen = (look t.table.entries i).gen at gen
  rw [entry] at gen
  exact ⟨gen, left.after (.trySettleAttached _ _) settled.lists⟩

/-- The turn of another entry makes no grant under the handle, nor takes one. -/
theorem State.SamePlaces.turn {h : Handle} (all : ∀ g, fate g = .freed) (other : h.index ≠ j) (made : s.NotMade h) :
    SamePlaces h s (State.meetFate m fate s j) := by
  cases holds : (look s.table.entries j).grant with
  | none =>
    rw [meetFate_of_free holds]
    exact refl
  | some g =>
    by_cases own : g.owner = m
    · have freed : SamePlaces h s (s.freeGrant (s.handleOf j)) := .freeGrant other s
      rw [meetFate_of_freed holds own (all g)]
      exact freed.trans (.trySettleAttached (freed.notMade made) _)
    · rw [meetFate_of_other holds own]
      exact refl

theorem State.SamePlaces.turns {h : Handle} (all : ∀ g, fate g = .freed) (l : List GrantIndex) (apart : h.index ∉ l)
    (s : State) (made : s.NotMade h) : SamePlaces h s (l.foldl (State.meetFate m fate) s) := by
  induction l generalizing s with
  | nil => exact refl
  | cons j rest ih =>
    rw [List.mem_cons, not_or] at apart
    have first := SamePlaces.turn (m := m) all apart.1 made
    exact first.trans (ih apart.2 _ (first.notMade made))

/-! ### The claim -/

theorem not_takes_of_freed (all : ∀ g, fate g = .freed) (j : GrantIndex) : ¬s.takes m fate j = true := fun taken => by
  obtain ⟨g, -, -, revoked⟩ := State.takes_iff.mp taken
  rw [all g] at revoked
  cases revoked

/-- Turns of other entries pass by an entry in use. -/
theorem Passes.turns (all : ∀ g, fate g = .freed) (l : List GrantIndex) (apart : i ∉ l) (s : State)
    (used : i ∉ s.table.freeQueue) : Passes i s (l.foldl (State.meetFate m fate) s) := by
  induction l generalizing s with
  | nil => exact .refl
  | cons j rest ih =>
    rw [List.mem_cons, not_or] at apart
    have first : Passes i s (State.meetFate m fate s j) :=
      .meetFate apart.1 (.inl used) fun taken => absurd taken (not_takes_of_freed all j)
    exact first.trans (ih apart.2 _ (first.free used))

theorem State.entriesOf_split (mine : i ∈ s.entriesOf m) :
    ∃ before after, s.entriesOf m = before ++ i :: after ∧ i ∉ before ∧ i ∉ after := by
  obtain ⟨before, after, split⟩ := List.append_of_mem mine
  have once : (s.entriesOf m).Nodup := (allIndexes_eq ▸ List.nodup_finRange 1024).filter _
  rw [split, List.nodup_append, List.nodup_cons] at once
  obtain ⟨-, ⟨fresh, -⟩, apart⟩ := once
  exact ⟨before, after, split, fun mem => apart i mem i List.mem_cons_self rfl, fresh⟩

/-- A grant that the claim frees: its generation steps once, and its units are where they go. -/
theorem freed_linkClaim (all : ∀ g, fate g = .freed) (passes : Passes i s t) (goes : Proceeds s t)
    (holds : (look s.table.entries i).grant = some g) (own : g.owner = m) (used : i ∉ s.table.freeQueue) :
    (look (t.linkClaim m fate).table.entries i).gen = (look s.table.entries i).gen + 1 ∧
      s.UnitsLeft (t.linkClaim m fate) i g := by
  have stepped : ∀ n : Fin 64, n + 1 ≠ n := by decide
  obtain ⟨g₀, holds₀, record₀⟩ := passes.grant holds
  have own₀ : g₀.owner = m := (congrArg Grant.owner record₀).trans own
  obtain ⟨before, after, split, early, late⟩ := State.entriesOf_split (State.mem_entriesOf.mpr ⟨g₀, holds₀, own₀⟩)
  have claim : t.linkClaim m fate = after.foldl (State.meetFate m fate)
      (State.meetFate m fate (before.foldl (State.meetFate m fate) t) i) := by
    rw [State.linkClaim, split, List.foldl_append, List.foldl_cons]
  have passed : Passes i s (before.foldl (State.meetFate m fate) t) :=
    passes.trans (.turns all before early t (passes.free used))
  have went : Proceeds s (before.foldl (State.meetFate m fate) t) := goes.trans (.foldl (.meetFate m fate) before t)
  rw [claim]
  generalize before.foldl (State.meetFate m fate) t = v at passed went
  obtain ⟨g₁, holds₁, record⟩ := passed.grant holds
  have own₁ : g₁.owner = m := (congrArg Grant.owner record).trans own
  obtain ⟨gen, left⟩ := freedTurn all holds₁ own₁
  have turn := Proceeds.meetFate m fate v i
  generalize State.meetFate m fate v i = w at gen left turn
  have made : w.NotMade (v.handleOf i) := .inr (by
    change (look w.table.entries i).gen ≠ (look v.table.entries i).gen
    rw [gen]
    exact stepped _)
  have rest := State.SamePlaces.turns (m := m) all after (h := v.handleOf i) late w made
  have on := Proceeds.foldl (Proceeds.meetFate m fate) after w
  generalize after.foldl (State.meetFate m fate) w = u at rest on
  refine ⟨?_, passed.unitsLeft went (turn.trans on) holds holds₁ (left.after on rest.lists)⟩
  have same := rest.gen
  change (look u.table.entries i).gen = (look w.table.entries i).gen at same
  rw [same, gen, passed.entry.gen]

/-- No grant of the master is left. -/
theorem emptied_linkClaim (all : ∀ g, fate g = .freed) (none_ : ∀ tag k, ¬s.CaseUnder m tag k) (i : GrantIndex) :
    Done m fate i (s.linkClaim m fate) := by
  have follows (g g₀ : Grant) (_ : g.Follows g₀) (kept : fate g₀ = .kept) : fate g = .kept := by
    rw [all g₀] at kept
    cases kept
  have turns (l : List GrantIndex) (s : State) (none_ : ∀ tag k, ¬s.CaseUnder m tag k)
      (done : i ∉ l → Done m fate i s) : Done m fate i (l.foldl (State.meetFate m fate) s) := by
    induction l generalizing s with
    | nil => exact done List.not_mem_nil
    | cons j rest ih =>
      have goes := Proceeds.meetFate m fate s j
      refine ih _ (fun tag k mine => none_ tag k (goes.caseUnder mine)) fun out => ?_
      by_cases here : i = j
      · subst here
        cases holds : (look s.table.entries i).grant with
        | none =>
          rw [State.meetFate_of_free holds]
          intro g holds'
          rw [holds] at holds'
          cases holds'
        | some g =>
          by_cases own : g.owner = m
          · have entry := State.entry_freeGrant holds
            have freed := Proceeds.freeGrant s (s.handleOf i)
            have empty : Done m fate i (s.freeGrant (s.handleOf i)) := fun g' holds' => by
              rw [entry] at holds'
              cases holds'
            rw [State.meetFate_of_freed holds own (all g)]
            exact empty.of_proceeds follows (fun tag k mine => none_ tag k (freed.caseUnder mine))
              (.trySettleAttached _ _)
          · rw [State.meetFate_of_other holds own]
            intro g' holds' own'
            cases holds.symm.trans holds'
            exact absurd own' own
      · exact (done (by simp [here, out])).of_proceeds follows none_ goes
  exact turns _ s none_ fun out g holds own => absurd (State.mem_entriesOf.mpr ⟨g, holds, own⟩) out

/-! ### The port of the master -/

namespace State

theorem port_createGrant {r : Request} (other : m ≠ r.owner) (s : State) (c : CarrierId) :
    (s.createGrant r c).port m = s.port m := by
  cases queue : s.table.freeQueue with
  | nil => rw [createGrant, queue]
  | cons i rest =>
    rw [createGrant_of_cons queue]
    exact port_offer_ne _ other _

theorem port_refuse {j : MasterId} (other : m ≠ j) (s : State) (tag : Half) (o : AnswerCode) :
    (s.refuse j tag o).port m = s.port m := port_offer_ne s other _

theorem port_joinHead {r : Request} (other : m ≠ r.owner) (s : State) : (s.joinHead r).port m = s.port m := by
  have offered (t : State) : (t.offer r.owner (.queued r.tag .waiting)).port m = t.port m := port_offer_ne t other _
  unfold joinHead announceWaiting reportQueued modList
  cases r.level <;> exact offered _

/-- A case of another master that may settle offers nothing to the master. -/
theorem port_trySettle (none_ : ∀ tag k, ¬s.CaseUnder m tag k) (k : CaseId) : (s.trySettle k).port m = s.port m := by
  have other {x : Case} (collecting : s.caseAt k = some x) : m ≠ x.req.owner := fun own =>
    none_ x.req.tag k ⟨x, collecting, own.symm, rfl⟩
  refine trySettle_induct (P := fun t => t.port m = s.port m) k rfl (fun x collecting => ?_)
    (fun t x same => ?_) (fun t c u same => ?_) (fun t x collecting same => ?_) (fun t x collecting same => ?_)
  · exact port_createGrant (other collecting) s _
  · rw [detachAll_eq_entries]
    exact same
  · rw [returnUnits_eq]
    exact same
  · exact (port_joinHead (other collecting) t).trans same
  · exact (port_refuse (other collecting) t _ _).trans same

/-- A claim that forgets a master without cases offers nothing to it. -/
theorem port_forget (all : ∀ g, fate g = .freed) (none_ : ∀ tag k, ¬s.CaseUnder m tag k) :
    (s.linkClaim m fate).port m = s.port m := by
  rw [linkClaim]
  generalize s.entriesOf m = l
  induction l generalizing s with
  | nil => rfl
  | cons j rest ih =>
    have goes := Proceeds.meetFate m fate s j
    refine (ih fun tag k mine => none_ tag k (goes.caseUnder mine)).trans ?_
    cases holds : (look s.table.entries j).grant with
    | none => rw [meetFate_of_free holds]
    | some g =>
      by_cases own : g.owner = m
      · have freed : (s.freeGrant (s.handleOf j)).port m = s.port m := by
          rw [port, ports_freeGrant]
          rfl
        have still := Proceeds.freeGrant s (s.handleOf j)
        rw [meetFate_of_freed holds own (all g)]
        cases g.phase.attached with
        | none => exact freed
        | some k => exact (port_trySettle (fun tag k mine => none_ tag k (still.caseUnder mine)) k).trans freed
      · rw [meetFate_of_other holds own]

end State

end Sys2Proof.Machine
end

section
/-! A LINK_OPEN served (R146, R147): what its claim leaves when it keeps and when it forgets, and the HELLO. -/

namespace Sys2Proof.Machine

variable {s t u v : State} {m : MasterId} {i j : GrantIndex} {g : Grant}

/-! ### The fates -/

theorem freed_fateAtKeep : fateAtKeep g = .freed ↔ (∃ d, g.phase = .held d) ∨ ∃ cause, g.phase = .revoked cause := by
  unfold fateAtKeep
  cases phase : g.phase <;> simp

theorem freesPlainly_fateAtKeep : State.FreesPlainly fateAtKeep := by
  refine ⟨fun g freed => ?_, fun g revoked => ?_⟩
  · rcases freed_fateAtKeep.mp freed with ⟨d, phase⟩ | ⟨cause, phase⟩ <;> rw [phase] <;> rfl
  · unfold fateAtKeep at revoked
    cases phase : g.phase <;> simp [phase] at revoked

theorem unmoved_fateAtKeep (g : Grant) (freed : fateAtKeep g = .freed) (cause d j) :
    g.phase ≠ .recalled cause d j := by
  rcases freed_fateAtKeep.mp freed with ⟨d, phase⟩ | ⟨cause, phase⟩ <;> rw [phase] <;> simp

/-! ### What the claim leaves -/

/-- What the end of the pending work and the claim of a LINK_OPEN leave, the grants being kept or not. -/
structure Opens (m : MasterId) (keep : Prop) (s v : State) : Prop where
  port : v.port m = s.port m
  ports : ∀ j, (v.port j).unqueued = (s.port j).unqueued
  pending : ∀ tag, ¬v.WaitsUnder m tag ∧ ∀ k, ¬v.CaseUnder m tag k
  own : ∀ i g, (look v.table.entries i).grant = some g → g.owner = m →
    keep ∧ (g.phase = .active ∨ ∃ c d k, g.phase = .recalled c d k)
  active : ∀ i g, (look s.table.entries i).grant = some g → g.owner = m → g.phase = .active → keep →
    look v.table.entries i = look s.table.entries i
  recalled : ∀ i g cause d k, (look s.table.entries i).grant = some g → g.owner = m → g.phase = .recalled cause d k →
    keep → look v.table.entries i = look s.table.entries i ∨
      ∃ j, k = some j ∧ (∃ tag, s.CaseUnder m tag j) ∧
        look v.table.entries i = ⟨(look s.table.entries i).gen, some { g with phase := .recalled cause d none }⟩
  others : s.FreeQueueAgrees → ∀ i g, (look s.table.entries i).grant = some g → g.owner ≠ m → s.KeptButDetached v i
  gone : s.FreeQueueAgrees → ∀ i g, (look s.table.entries i).grant = some g → g.owner = m →
    (keep → fateAtKeep g = .freed) →
    (look v.table.entries i).gen = (look s.table.entries i).gen + 1 ∧ s.UnitsLeft v i g ∧
      (keep → (look v.table.entries i).grant = none)
  freeQueue : keep → v.table.freeQueue = s.table.freeQueue ++ (List.finRange 1024).filter (s.goes m fateAtKeep)

theorem opens_keep (age : s.recallUnit.AgeAgrees) {keep : Prop} (kept : keep) :
    Opens m keep s ((s.dropPending m).linkClaim m fateAtKeep) := by
  have ends := State.endsPlainly freesPlainly_fateAtKeep unmoved_fateAtKeep s m
  have none_ := s.nothingPending_dropPending age m
  have goes := (Proceeds.dropPending s m).trans (.linkClaim (s.dropPending m) m fateAtKeep)
  generalize (s.dropPending m).linkClaim m fateAtKeep = v at ends goes
  have stays (i : GrantIndex) (g : Grant) (holds : (look s.table.entries i).grant = some g)
      (not_gone : ¬(g.owner = m ∧ fateAtKeep g = .freed)) :
      look v.table.entries i = look (s.dropPending m).table.entries i := by
    rw [ends.entries, if_neg (mt (State.goes_of_grant holds).mp not_gone)]
  refine ⟨?_, goes.ports, fun tag => ?_, fun i g holds own => ⟨kept, ?_⟩, fun i g holds own phase _ => ?_,
    fun i g cause d k holds own phase _ => ?_, fun _ i g holds other => ?_, fun _ i g holds own freed => ?_,
    fun _ => ends.freeQueue⟩
  · rw [State.port, ends.ports]
    rfl
  · have pending := none_ tag
    unfold State.WaitsUnder State.CaseUnder State.caseAt at pending ⊢
    rw [ends.pending.1, ends.pending.2]
    exact pending
  · have fated : fateAtKeep g ≠ .freed := fun freed => by
      rw [ends.entries] at holds
      split_ifs at holds with gone
      rcases s.entry_dropPending m i with same | ⟨g', cause, d, j, -, -, -, -, lost⟩
      · rw [same] at holds
        exact gone ((State.goes_of_grant holds).mpr ⟨own, freed⟩)
      · rw [lost] at holds
        cases holds
        exact unmoved_fateAtKeep _ freed _ _ _ rfl
    cases phase : g.phase with
    | active => exact .inl rfl
    | recalled cause d k => exact .inr ⟨cause, d, k, rfl⟩
    | held d => exact absurd (freed_fateAtKeep.mpr (.inl ⟨d, phase⟩)) fated
    | revoked cause => exact absurd (freed_fateAtKeep.mpr (.inr ⟨cause, phase⟩)) fated
  · rw [stays i g holds fun gone => by simp [fateAtKeep, phase] at gone]
    rcases s.entry_dropPending m i with same | ⟨g', cause, d, j, holds', recalled, -⟩
    · exact same
    · cases holds.symm.trans holds'
      rw [phase] at recalled
      cases recalled
  · rw [stays i g holds fun gone => by simp [fateAtKeep, phase] at gone]
    rcases s.entry_dropPending m i with same | ⟨g', cause', d', j, holds', phase', mine, -, detached⟩
    · exact .inl same
    · cases holds.symm.trans holds'
      cases phase.symm.trans phase'
      exact .inr ⟨j, rfl, mine, detached⟩
  · have same := stays i g holds fun gone => other gone.1
    rcases s.entry_dropPending m i with kept | ⟨g', cause, d, j, holds', phase, -, ended, detached⟩
    · exact .inl (same.trans kept)
    · refine .inr ⟨g', cause, d, j, holds', phase, ?_, same.trans detached⟩
      unfold State.caseAt at ended ⊢
      rw [ends.pending.2]
      exact ended
  · have gone : s.goes m fateAtKeep i = true := (State.goes_of_grant holds).mpr ⟨own, freed kept⟩
    have entry := ends.entries i
    rw [if_pos gone] at entry
    exact ⟨congrArg Entry.gen entry, ends.unitsLeft freesPlainly_fateAtKeep holds gone, fun _ => congrArg Entry.grant entry⟩

theorem opens_forget (age : s.recallUnit.AgeAgrees) {keep : Prop} (forgets : ¬keep) :
    Opens m keep s ((s.dropPending m).linkClaim m fateAtForget) := by
  have all (g : Grant) : fateAtForget g = .freed := rfl
  have none_ := s.nothingPending_dropPending age m
  have before := Proceeds.dropPending s m
  have goes := Proceeds.linkClaim (s.dropPending m) m fateAtForget
  refine ⟨?_, (before.trans goes).ports, fun tag => ⟨fun waits => ?_, fun k mine => ?_⟩, fun i g holds own => ?_,
    fun _ _ _ _ _ keep => absurd keep forgets, fun _ _ _ _ _ _ _ _ keep => absurd keep forgets,
    fun agrees i g holds other => ?_, fun agrees i g holds own _ => ?_, fun keep => absurd keep forgets⟩
  · rw [State.port_forget all fun tag => (none_ tag).2, State.dropPending_eq]
    rfl
  · rcases goes.waits m tag waits with waited | ⟨k, mine⟩
    · exact (none_ tag).1 waited
    · exact (none_ tag).2 k mine
  · exact (none_ tag).2 k (goes.caseUnder mine)
  · have kept := emptied_linkClaim all (fun tag => (none_ tag).2) i g holds own
    cases kept
  · have used : i ∉ s.table.freeQueue := fun mem => by
      rw [(agrees.2 i).mp mem] at holds
      cases holds
    have first := Passes.dropPending s m i
    have apart : i ∉ (s.dropPending m).entriesOf m := fun mine => by
      obtain ⟨g', holds', own⟩ := State.mem_entriesOf.mp mine
      obtain ⟨g₁, holds₁, record⟩ := first.grant holds
      cases holds'.symm.trans holds₁
      exact other ((congrArg Grant.owner record).symm.trans own)
    have rest : Passes i (s.dropPending m) ((s.dropPending m).linkClaim m fateAtForget) :=
      .turns all _ apart _ (first.free used)
    exact first.entry.trans rest.entry rest.cases
  · have used : i ∉ s.table.freeQueue := fun mem => by
      rw [(agrees.2 i).mp mem] at holds
      cases holds
    obtain ⟨gen, left⟩ := freed_linkClaim all (.dropPending s m i) before holds own used
    exact ⟨gen, left, fun keep => absurd keep forgets⟩

/-! ### The HELLO -/

namespace State

/-- R146 steps 4 to 7: the port once the claim has been served, and the HELLO at the head of its queue. -/
theorem openLink_tail {cause : LinkCause} (mode : NoticeMode) (same : v.skeleton = s.skeleton)
    {p : Port} (port : v.port m = { p with lastCause := some cause, rxBuffer := [], queue := [], overrun := false }) :
    let opened := (v.modPort m fun p => { p with noticeMode := mode, frameFaults := 0 }).wake m
    let told := opened.offer m (opened.hello m)
    ∃ ports, (if cause = .afterSuspend then told.modPort m fun p => { p with suspendReason := none } else told) =
        { v with ports := ports } ∧
      (∀ j, j ≠ m → look ports j = v.port j) ∧
      look ports m = { p with
        link := .up, silence := some (s.now + (s.master m).silencePeriod), orphan := none, frameFaults := 0
        rxBuffer := [], noticeMode := mode, overrun := false, lastCause := some cause
        suspendReason := if cause = .afterSuspend then none else p.suspendReason
        queue := [.hello s.responder.resetCause (some cause)
          (if cause = .afterSuspend then p.suspendReason else none) s.epoch.number s.epoch.level
          p.flags 1] } := by
  intro opened told
  have now : v.now = s.now := congrArg (fun u => u.epoch.timebase) same
  have period : (v.master m).silencePeriod = (s.master m).silencePeriod := by
    have records := congrArg MasterRecord.silencePeriod (master_of_skeleton same m)
    exact records
  have resetCause : v.responder.resetCause = s.responder.resetCause := congrArg (fun u => u.responder.resetCause) same
  have number : v.epoch.number = s.epoch.number := congrArg (fun u => u.epoch.number) same
  have level : v.epoch.level = s.epoch.level := congrArg (fun u => u.epoch.level) same
  have at_ : opened.port m = { p with
      link := .up, silence := some (s.now + (s.master m).silencePeriod), orphan := none, frameFaults := 0
      rxBuffer := [], noticeMode := mode, overrun := false, lastCause := some cause, queue := [] } := by
    refine (port_modPort_same _ m _).trans ?_
    rw [port_modPort_same, port]
    change Port.mk .up (some (v.now + (v.master m).silencePeriod)) _ _ _ _ _ _ _ _ _ _ _ = _
    rw [now, period]
  have greets : opened.hello m = .hello s.responder.resetCause (some cause)
      (if cause = .afterSuspend then p.suspendReason else none) s.epoch.number s.epoch.level
      p.flags 1 := by
    rw [hello, at_]
    change OutFrame.hello v.responder.resetCause _ _ v.epoch.number v.epoch.level _ _ = _
    rw [resetCause, number, level]
    simp only [Option.some.injEq]
    rfl
  have heard : told.port m = { opened.port m with queue := (opened.port m).queue ++ [opened.hello m] } := by
    refine port_offer_of_room ?_ (.inl ?_) rfl ?_ <;> rw [at_]
    exact Nat.zero_lt_succ 63
  have whole : told = { v with ports := told.ports } := offer_eq_ports opened m (opened.hello m)
  have others (j : MasterId) (other : j ≠ m) : told.port j = v.port j :=
    (port_offer_ne opened other _).trans ((port_modPort_ne _ other _).trans (port_modPort_ne _ other _))
  rw [greets, at_] at heard
  clear_value told
  by_cases after : cause = .afterSuspend
  · simp only [if_pos after] at heard ⊢
    refine ⟨(told.modPort m fun p => { p with suspendReason := none }).ports, ?_, fun j other => ?_, ?_⟩
    · rw [whole]
      rfl
    · exact (port_modPort_ne told other _).trans (others j other)
    · refine (port_modPort_same told m _).trans ?_
      rw [heard]
      rfl
  · simp only [if_neg after] at heard ⊢
    exact ⟨told.ports, whole, others, heard⟩

end State

end Sys2Proof.Machine
end

section
/-! A LINK_OPEN, from its arrival to the end of its claim (R143, R146, R147). -/

namespace Sys2Proof.Machine

theorem NoticeMode.ofCode_of_other {b : Byte} (other : b.toNat ≠ 1 ∧ b.toNat ≠ 2) : NoticeMode.ofCode b = none := by
  unfold NoticeMode.ofCode
  split
  · next one => exact absurd one other.1
  · next two => exact absurd two other.2
  · rfl

theorem KeepChoice.ofCode_of_other {b : Byte} (other : b.toNat ≠ 1 ∧ b.toNat ≠ 2) : KeepChoice.ofCode b = none := by
  unfold KeepChoice.ofCode
  split
  · next one => exact absurd one other.1
  · next two => exact absurd two other.2
  · rfl

namespace State

variable {s : State} {m : MasterId}

theorem takeLinkOpen_of_refused {notice keep : Byte}
    (refused : s.resetHeld = true ∨ (notice.toNat ≠ 1 ∧ notice.toNat ≠ 2) ∨ (keep.toNat ≠ 1 ∧ keep.toNat ≠ 2)) :
    s.takeLinkOpen m notice keep = s := by
  unfold takeLinkOpen
  rcases refused with held | other | other
  · rw [if_pos held]
  · rw [NoticeMode.ofCode_of_other other]
    exact ite_self s
  · rw [KeepChoice.ofCode_of_other other]
    split_ifs
    · rfl
    · cases NoticeMode.ofCode notice <;> rfl

/-- The choice a valid keep value codes. -/
theorem takeLinkOpen_of_taken {notice keep : Byte} {mode : NoticeMode} (running : s.resetHeld = false)
    (coded : mode.code = notice) (valid : keep.toNat = 1 ∨ keep.toNat = 2) :
    s.takeLinkOpen m notice keep =
      (s.serveFaults m).openLink m mode (if keep.toNat = 1 then .keep else .forget) := by
  have choice : KeepChoice.ofCode keep = some (if keep.toNat = 1 then .keep else .forget) := by
    unfold KeepChoice.ofCode
    rcases valid with one | two
    · rw [one]
      rfl
    · rw [two]
      rfl
  unfold takeLinkOpen
  rw [if_neg (by rw [running]; exact Bool.false_ne_true), ← coded, NoticeMode.ofCode_code, choice]

/-- R146: the claim of a LINK_OPEN, and what follows it. -/
theorem openLink_eq {cause : LinkCause} {v : State} (mode : NoticeMode) (choice : KeepChoice)
    (opening : openingCause (s.port m).link = cause)
    (claim : v = ((s.modPort m fun p => { p with
      lastCause := some cause, rxBuffer := [], queue := [], overrun := false }).dropPending m).linkClaim m
        (fateAtOpen choice)) :
    let opened := (v.modPort m fun p => { p with noticeMode := mode, frameFaults := 0 }).wake m
    let told := opened.offer m (opened.hello m)
    s.openLink m mode choice =
      (if cause = .afterSuspend then told.modPort m fun p => { p with suspendReason := none } else told).finish := by
  subst opening
  rw [openLink, ← claim]

theorem ageAgrees_serveFaults (age : s.recallUnit.AgeAgrees) (m : MasterId) : (s.serveFaults m).recallUnit.AgeAgrees :=
  (Steady.serveFaults s m).keeps.age age

end State

/-- Settles O44. -/
theorem linkOpenServed : Obligations.LinkOpenServed := by
  intro m notice keep start
  refine ⟨fun refused => congrArg Host.Outcome.next (State.takeLinkOpen_of_refused refused), rfl,
    State.serveFaults_of_none, ?_⟩
  intro running age mode coded valid s cause reason emptied claimed goes
  have age' : s.recallUnit.AgeAgrees := State.ageAgrees_serveFaults age m
  have agrees (h : start.FreeQueueAgrees) : s.FreeQueueAgrees := (Steady.serveFaults start m).keeps.freeQueue h
  have spec (g : Grant) : goes g = true ↔ g.owner = m ∧ (keep.toNat = 1 → fateAtKeep g = .freed) := by
    simp only [goes, Bool.and_eq_true, Bool.or_eq_true, decide_eq_true_eq, fateAtKeep]
    refine and_congr_right fun _ => ?_
    rcases valid with one | two
    · cases phase : g.phase <;> simp [one]
    · simp [two]
  have opening : State.openingCause (s.port m).link = cause := by
    simp only [cause]
    cases (s.port m).link <;> rfl
  have chosen : (if keep.toNat = 1 then fateAtKeep else fateAtForget) =
      fateAtOpen (if keep.toNat = 1 then .keep else .forget) := by
    split_ifs <;> rfl
  have claim : claimed = (emptied.dropPending m).linkClaim m (fateAtOpen (if keep.toNat = 1 then .keep else .forget)) := by
    rw [← chosen]
  have opens : Opens m (keep.toNat = 1) emptied claimed := by
    by_cases kept : keep.toNat = 1
    · rw [claim, if_pos kept]
      exact opens_keep (s := emptied) (m := m) age' kept
    · rw [claim, if_neg kept]
      exact opens_forget (s := emptied) (m := m) age' kept
  have works : Works emptied claimed := (State.works_dropPending emptied m).trans (State.works_linkClaim _ m _)
  have at_ : claimed.port m = { s.port m with
      lastCause := some cause, rxBuffer := [], queue := [], overrun := false } :=
    opens.port.trans (State.port_modPort_same _ _ _)
  have served : exec (.linkOpen m notice keep) start = .next _ :=
    congrArg Host.Outcome.next ((State.takeLinkOpen_of_taken running coded valid).trans
      (State.openLink_eq mode _ opening claim))
  obtain ⟨ports, tail, others, own⟩ := State.openLink_tail mode works.skeleton at_
  rw [tail] at served
  clear_value claimed
  refine ⟨{ claimed with ports := ports }, served, rfl, others, own, fun j other => ?ports, opens.pending, opens.own,
    opens.active, opens.recalled, fun h => ⟨opens.others (agrees h), fun i g holds gone => ?gone, fun kept => ?queue⟩⟩
  case ports =>
    refine (congrArg Port.unqueued (others j other)).trans ((opens.ports j).trans ?_)
    rw [State.port_modPort_ne _ other]
  case gone =>
    obtain ⟨own, freed⟩ := (spec g).mp gone
    exact opens.gone (agrees h) i g holds own freed
  case queue =>
    refine (opens.freeQueue kept).trans (congrArg _ (List.filter_congr fun i _ => ?_))
    cases holds : (look s.table.entries i).grant with
    | none => rw [State.goes, show (look emptied.table.entries i).grant = none from holds, Option.any_none]
    | some g =>
      have iff := State.goes_of_grant (s := emptied) (m := m) (fate := fateAtKeep) holds
      exact Bool.eq_iff_iff.mpr (iff.trans ((and_congr_right fun _ => ⟨fun freed _ => freed, fun freed => freed kept⟩).trans
        (spec g).symm))

end Sys2Proof.Machine
end
